-- ==== Sys2Proof/Word.lean ====
section
/-! DEFINITION. The data types of the block: bytes, 16-byte Blocks and frames. Nothing here is signed
(00_scope.md R8). -/

namespace Sys2Proof

/-- A byte: an unsigned integer in 0..255, bit 0 the low bit (R8). -/
abbrev Byte := BitVec 8

/-- A Block: exactly 16 bytes `b[0] .. b[15]`, index 0 the lowest-index byte (R9). It has "no internal
structure beyond byte sequence", so it is a vector of bytes and not a 128-bit word. -/
abbrev Block := Vector Byte 16

/-- A command frame or a response frame: a finite sequence of bytes, first byte first (R60). -/
abbrev Frame := List Byte

/-- The round-key register file's contents: ten Blocks, indices 0..9 (R22). -/
abbrev RoundKeys := Vector Block 10

/-- The round-constant register file's contents: 32 Blocks, indices 0..31 (R23). -/
abbrev RoundConstants := Vector Block 32

end Sys2Proof
end

