-- ==== Sys2Proof/Syntax.lean ====
section
/-! DEFINITION. The command set of 30_encoding.md R68, one constructor per row of the opcode table. -/

namespace Sys2Proof

/-- A decoded command with its operands as `Decode` hands them over (R69). The byte strings of `KEYINIT`,
`ENC` and `DEC` may have any length a frame can express: a wrong length is a legal encoding that the
command's own length check refuses (R46, R69). -/
inductive Instr where
  /-- `KEYINIT k1, k2` (R142). -/
  | keyinit (k1 k2 : List Byte)
  /-- `ENC data` (R160). -/
  | enc (data : List Byte)
  /-- `DEC data` (R161). -/
  | dec (data : List Byte)
  /-- `SUB blk` (R104). -/
  | sub (blk : Block)
  /-- `ISUB blk` (R105). -/
  | isub (blk : Block)
  /-- `GFMUL a, b` (R115). -/
  | gfmul (a b : Byte)
  /-- `RSTEP blk` (R127). -/
  | rstep (blk : Block)
  /-- `LDIF blk` (R128). -/
  | ldif (blk : Block)
  /-- `IRSTEP blk` (R129). -/
  | irstep (blk : Block)
  /-- `ILDIF blk` (R130). -/
  | ildif (blk : Block)
  /-- `RDRK idx`, legal 0..9 (R143). -/
  | rdrk (idx : Fin 10)
  /-- `RDRC idx`, legal 0..31 (R138). -/
  | rdrc (idx : Fin 32)
  deriving DecidableEq, Repr

end Sys2Proof
end

