-- ==== Sys2Proof/WellFormed.lean ====
section
/-! DEFINITION. Which commands have an encoding: those whose byte strings fit a one-byte length field
(R7, R61, R62; U7 of 93_implementation_defined.md: longer inputs are not expressible as a frame). Register
indices and Blocks are well formed by their types. -/

namespace Sys2Proof

/-- A byte string whose length a one-byte length field can carry, 0..255 (R72). -/
def fitsLengthByte (bytes : List Byte) : Bool := bytes.length ≤ 255

/-- The commands that some frame encodes. -/
def Instr.wellFormed : Instr → Bool
  | .keyinit k1 k2 => fitsLengthByte k1 && fitsLengthByte k2
  | .enc data => fitsLengthByte data
  | .dec data => fitsLengthByte data
  | .sub _ => true
  | .isub _ => true
  | .gfmul _ _ => true
  | .rstep _ => true
  | .ldif _ => true
  | .irstep _ => true
  | .ildif _ => true
  | .rdrk _ => true
  | .rdrc _ => true

end Sys2Proof
end

