-- ==== Sys2Proof/Decode.lean ====
section
/-! DEFINITION. The command encoding of 30_encoding.md: opcodes and formats (R60 to R65, R68), the decoder
(R69), the encoder written from the same tables, and the frame that a word of the machine-readable opcode
table stands for. -/

namespace Sys2Proof

/-- The frame formats of R61 to R65. -/
inductive Format where
  /-- K: two variable-length byte strings, `op len1 len2 K1 K2` (R61). -/
  | K
  /-- V: one variable-length byte string, `op len DATA` (R62). -/
  | V
  /-- B: one Block, `op BLK` (R63). -/
  | B
  /-- G: two bytes, `op a b` (R64). -/
  | G
  /-- I: one index, `op idx` (R65). -/
  | I
  deriving DecidableEq, Repr

/-- The twelve mnemonics of R68. -/
inductive Op where
  | keyinit | enc | dec | sub | isub | gfmul | rstep | ldif | irstep | ildif | rdrk | rdrc
  deriving DecidableEq, Repr

/-- The opcode byte `f[0]` of a mnemonic (R68). -/
def Op.code : Op → Byte
  | .keyinit => 0x01
  | .enc => 0x02
  | .dec => 0x03
  | .sub => 0x10
  | .isub => 0x11
  | .gfmul => 0x12
  | .rstep => 0x13
  | .ldif => 0x14
  | .irstep => 0x15
  | .ildif => 0x16
  | .rdrk => 0x20
  | .rdrc => 0x21

/-- The format of a mnemonic (R68). -/
def Op.format : Op → Format
  | .keyinit => .K
  | .enc | .dec => .V
  | .sub | .isub | .rstep | .ldif | .irstep | .ildif => .B
  | .gfmul => .G
  | .rdrk | .rdrc => .I

/-- Every mnemonic, in the order of R68. -/
def Op.all : List Op :=
  [.keyinit, .enc, .dec, .sub, .isub, .gfmul, .rstep, .ldif, .irstep, .ildif, .rdrk, .rdrc]

/-- The mnemonic an opcode byte selects; none for the reserved opcodes (R68, R70). -/
def Op.ofCode? (b : Byte) : Option Op := Op.all.find? fun o => o.code == b

/-- Why `Decode` answers `Illegal` (R70). The spec has the one answer `Illegal`; the names are the model's
and no step depends on them (DESIGN CHOICE, safe, assumption 8). -/
inductive Illegal where
  /-- The empty frame. -/
  | emptyFrame
  /-- An opcode outside R68: 0x00, 0x04..0x0F, 0x17..0x1F, 0x22..0xFF. -/
  | unknownOpcode
  /-- A known opcode whose frame is too short or has trailing bytes. -/
  | wrongFrameLength
  /-- `RDRK` with an index above 9 or `RDRC` with an index above 31. -/
  | indexOutOfRange
  deriving DecidableEq, Repr

/-- Operand of format V: `len DATA`, the frame length exactly `2 + len` (R62, R69). -/
def decodeBytes (mk : List Byte → Instr) : List Byte → Except Illegal Instr
  | len :: data => if data.length = len.toNat then .ok (mk data) else .error .wrongFrameLength
  | [] => .error .wrongFrameLength

/-- Operands of format K: `len1 len2 K1 K2`, the frame length exactly `3 + len1 + len2` (R61, R69). -/
def decodeTwoBytes (mk : List Byte → List Byte → Instr) : List Byte → Except Illegal Instr
  | len1 :: len2 :: body =>
    if body.length = len1.toNat + len2.toNat then
      .ok (mk (body.take len1.toNat) (body.drop len1.toNat))
    else .error .wrongFrameLength
  | _ => .error .wrongFrameLength

/-- Operand of format B: sixteen bytes, `BLK[i] = f[1+i]`, the frame length exactly 17 (R63, R69). -/
def decodeBlock (mk : Block → Instr) (blk : List Byte) : Except Illegal Instr :=
  if h : blk.length = 16 then .ok (mk ⟨⟨blk⟩, h⟩) else .error .wrongFrameLength

/-- Operands of format G: two bytes, the frame length exactly 3 (R64, R69). -/
def decodePair (mk : Byte → Byte → Instr) : List Byte → Except Illegal Instr
  | [a, b] => .ok (mk a b)
  | _ => .error .wrongFrameLength

/-- Operand of format I: one index byte below the size of the register file, the frame length exactly 2
(R65, R69). -/
def decodeIndex (size : Nat) (mk : Fin size → Instr) : List Byte → Except Illegal Instr
  | [idx] => if h : idx.toNat < size then .ok (mk ⟨idx.toNat, h⟩) else .error .indexOutOfRange
  | _ => .error .wrongFrameLength

/-- The operand bytes of a known opcode (R69). -/
def decodeOperands : Op → List Byte → Except Illegal Instr
  | .keyinit => decodeTwoBytes .keyinit
  | .enc => decodeBytes .enc
  | .dec => decodeBytes .dec
  | .sub => decodeBlock .sub
  | .isub => decodeBlock .isub
  | .gfmul => decodePair .gfmul
  | .rstep => decodeBlock .rstep
  | .ldif => decodeBlock .ldif
  | .irstep => decodeBlock .irstep
  | .ildif => decodeBlock .ildif
  | .rdrk => decodeIndex 10 .rdrk
  | .rdrc => decodeIndex 32 .rdrc

/-- `Decode` (R69): total on byte sequences, looks only at the frame and never at the state. -/
def decode : Frame → Except Illegal Instr
  | [] => .error .emptyFrame
  | op :: operands =>
    match Op.ofCode? op with
    | none => .error .unknownOpcode
    | some o => decodeOperands o operands

/-- The mnemonic of a command. -/
def Instr.op : Instr → Op
  | .keyinit _ _ => .keyinit
  | .enc _ => .enc
  | .dec _ => .dec
  | .sub _ => .sub
  | .isub _ => .isub
  | .gfmul _ _ => .gfmul
  | .rstep _ => .rstep
  | .ldif _ => .ldif
  | .irstep _ => .irstep
  | .ildif _ => .ildif
  | .rdrk _ => .rdrk
  | .rdrc _ => .rdrc

/-- A length as its one-byte field (R61, R62); exact for the lengths `fitsLengthByte` admits. -/
def lengthByte (bytes : List Byte) : Byte := BitVec.ofNat 8 bytes.length

/-- The operand bytes of a command, in frame order (R61 to R65, R72). -/
def encodeOperands : Instr → List Byte
  | .keyinit k1 k2 => lengthByte k1 :: lengthByte k2 :: (k1 ++ k2)
  | .enc data => lengthByte data :: data
  | .dec data => lengthByte data :: data
  | .sub blk => blk.toList
  | .isub blk => blk.toList
  | .gfmul a b => [a, b]
  | .rstep blk => blk.toList
  | .ldif blk => blk.toList
  | .irstep blk => blk.toList
  | .ildif blk => blk.toList
  | .rdrk idx => [BitVec.ofNat 8 idx.val]
  | .rdrc idx => [BitVec.ofNat 8 idx.val]

/-- The frame of a command: the opcode byte, then the operand bytes (R60 to R65). -/
def encode (i : Instr) : Frame := i.op.code :: encodeOperands i

/-- Telling the length of a command (R71): fixed for formats B, G and I, read from the length bytes for K
and V. A length byte that is not there counts as 0. None for a frame with no known opcode. -/
def frameLength? : Frame → Option Nat
  | [] => none
  | op :: rest =>
    (Op.ofCode? op).map fun o =>
      match o.format with
      | .K => 3 + (rest.getD 0 0).toNat + (rest.getD 1 0).toNat
      | .V => 2 + (rest.getD 0 0).toNat
      | .B => 17
      | .G => 3
      | .I => 2

/-- The low `nbits` bits of `w` as bytes, bits 7..0 first: the numbering of the machine-readable opcode
table, whose word is the opcode byte alone. -/
def wordBytes (nbits w : Nat) : List Byte :=
  (List.range ((nbits + 7) / 8)).map fun k => BitVec.ofNat 8 ((w % 2 ^ nbits) >>> (8 * k))

/-- The frame a table word stands for: its bytes, then zero bytes up to the length that the opcode's
format and length bytes require (R71). Bytes beyond that length are kept, so that a word too long for its
opcode is the illegal frame it says. -/
def frameOfWord (nbits w : Nat) : Frame :=
  let given := wordBytes nbits w
  given ++ List.replicate ((frameLength? given).getD 0 - given.length) 0

/-- What the decoder reads from a table word (the host's question, one row at a time). -/
def decodeTableWord (nbits w : Nat) : Option Instr := (decode (frameOfWord nbits w)).toOption

end Sys2Proof
end

