-- ==== Sys2Proof/Config.lean ====
section
/-! DEFINITION. What is fixed for the machine and is not state: the three constant tables as a record of
parameters (R6, R24 to R27) with the constraints on them that make the cipher invertible, and the one value
that the spec leaves undefined. All of R6's constraints, full diffusion among them, are `Tables.Valid` of
Safety.lean, since full diffusion speaks of `LDif`. The standard values are in Machine/Tables.lean. -/

namespace Sys2Proof

/-- The constant tables, "process-wide immutable constants, never mutated" (R24 to R27): read-only
parameters of the step, never state, so functions are allowed here. `pi` and `piInv` are the 256-entry
byte tables `PI` and `PI_INV`, indexed by a byte value; `lvec` is `LVEC[0..15]`. -/
structure Tables where
  pi : Byte → Byte
  piInv : Byte → Byte
  lvec : Block

/-- The constraints of R6 that the inverses need: `PI_INV` is the exact inverse of `PI` over the full closed
table (R102), so that both are bijections, and `LVEC[0]` is not zero, which is what the inverse diffusion
step needs (R120, R124). A claim that needs no more than this assumes no more (D2). -/
structure Tables.Invertible (T : Tables) : Prop where
  piInv_pi : ∀ v, T.piInv (T.pi v) = v
  pi_piInv : ∀ v, T.pi (T.piInv v) = v
  lvec_zero : T.lvec[0] ≠ 0

/-- Free value: `GfInv(0x00)`, which "is not defined and no rule applies `GfInv` to zero" (R114).
DESIGN CHOICE, safe (assumption 5). -/
opaque Config.gfInvOfZero : Byte

end Sys2Proof
end

