-- ==== Sys2Proof/Machine/State.lean ====
section
/-! DEFINITION. The state of the machine: the engine's state of 10_state.md R21 to R23 and the two streams
that join it to the host (R20), as plain data; the reasons a step can stop; the state after reset. -/

namespace Sys2Proof.Machine

/-- The engine's whole state: `ST.KEYED`, `RK[0..9]` and `RC[0..31]` (R21 to R23), as LW1's state machine
"Unkeyed (no RoundKeys) → Keyed (RoundKeys derived ...)". `ST.KEYED` is the constructor (`KeyState.flag`
reads it). In the Unkeyed state the two register files hold no value, as R32 and R33 say of reset, and no
state exists in which some round keys are visible and others are not (R198). DEDUCED, safe (assumption 6). -/
inductive KeyState where
  /-- `ST.KEYED = 0`: `RK` and `RC` hold no value. -/
  | unkeyed
  /-- `ST.KEYED = 1`: the contents of `RK` and of `RC`. -/
  | keyed (rk : RoundKeys) (rc : RoundConstants)
  deriving DecidableEq, Repr

/-- What the host or platform does to the engine: hand it a whole command frame (R60) or reset it (R195),
between commands (assumption 7). -/
inductive HostEvent where
  /-- A command frame, handed over whole. -/
  | command (f : Frame)
  /-- The reset event, between commands (R195). -/
  | reset
  deriving DecidableEq, Repr

/-- The machine's state. `st` is the engine's state and all of it. `pending` and `responses` are the
model's own (DESIGN CHOICE, unsafe, assumption 1): the spec's step takes a command frame and gives a response frame, and here the
frames to come and the frames given stand in the state, oldest first. -/
structure State where
  /-- `ST.KEYED`, `RK`, `RC` (R21 to R23). -/
  st : KeyState
  /-- The host's events that the engine has not taken yet, the next one first. -/
  pending : List HostEvent
  /-- The response frames the engine has emitted, oldest first; no step reads them (R29). -/
  responses : List Frame
  deriving DecidableEq, Repr

/-- Reasons for a step to stop with a fault: none. Every frame, legal or not, is answered with a response
frame and a next state (R74, R170, R177), and the engine cannot hang (R200). -/
inductive Fault where
  deriving DecidableEq, Repr

/-- Reasons for a step to be refused by the model. -/
inductive Refusal where
  /-- A command without a meaning yet, by its mnemonic; safe. No arm of `exec` raises it. -/
  | notModelled (mnemonic : String)
  deriving DecidableEq, Repr

/-- The state after reset (R32): Unkeyed, `RK` and `RC` without a value, no response pending, and no
command issued yet. -/
def State.reset : State where
  st := .unkeyed
  pending := []
  responses := []

end Sys2Proof.Machine
end

