-- ==== Sys2Proof/Machine/Flags.lean ====
section
/-! DEFINITION. The only flag of the block, `ST.KEYED` (R21, R29), and the status codes of a response,
which are outputs and no stored flags (R29, R67, R170). No arithmetic operation sets a flag. -/

namespace Sys2Proof.Machine

/-- `ST.KEYED` (R21). -/
def KeyState.flag : KeyState → Bool
  | .unkeyed => false
  | .keyed _ _ => true

/-- The six statuses (R67). -/
inductive Status where
  | ok | invalidKeyLength | invalidBlockSize | notKeyed | alreadyKeyed | illegalCommand
  deriving DecidableEq, Repr

/-- The status byte `g[0]` (R67); no other code is ever produced. -/
def Status.code : Status → Byte
  | .ok => 0x00
  | .invalidKeyLength => 0x01
  | .invalidBlockSize => 0x02
  | .notKeyed => 0x03
  | .alreadyKeyed => 0x04
  | .illegalCommand => 0x05

end Sys2Proof.Machine
end

