-- ==== Sys2Proof/Machine/Operands.lean ====
section
/-! DEFINITION. The operand forms of the commands (R46, R72) and the operations on whole Blocks that the
functions of files 41 to 46 share (R9, R10). -/

namespace Sys2Proof.Machine

/-- The strict length rule (R46): a byte string is a Block when it has exactly 16 bytes; nothing is
padded, truncated or split. Byte `i` of the string is byte index `i` of the Block (R42). -/
def toBlock? (bytes : List Byte) : Option Block :=
  if h : bytes.length = 16 then some ⟨⟨bytes⟩, h⟩ else none

/-- The Block whose byte `i` is `f b[i]`: sixteen independent lanes. -/
def mapBlock (f : Byte → Byte) (b : Block) : Block := ⟨(b.toList.map f).toArray, by simp⟩

/-- The Block whose byte `i` is `f a[i] b[i]`. -/
def zipBlock (f : Byte → Byte → Byte) (a b : Block) : Block :=
  ⟨(List.zipWith f a.toList b.toList).toArray, by simp⟩

/-- `A ^ B` on Blocks, byte by byte (R10). -/
def xorBlock (a b : Block) : Block := zipBlock (· ^^^ ·) a b

/-- `XORSUM` of a list of bytes, 0 for the empty list (R10). -/
def xorSum (bytes : List Byte) : Byte := bytes.foldl (· ^^^ ·) 0

/-- A Block from its GOST string `h"..."` read as one number: the leftmost pair is `b[15]`, the rightmost
pair is `b[0]` (R9 (b), R41). Notation for vectors; no command uses it. -/
def gost (h : BitVec 128) : Block :=
  ⟨((List.range 16).map fun i => h.extractLsb' (8 * i) 8).toArray, by simp⟩

end Sys2Proof.Machine
end

