-- ==== Sys2Proof/Machine/Ops.lean ====
section
/-! DEFINITION. The operations that commands and events share: emitting a response (R66), raising a status
(R177), the state check and the length check (R74), writing the register files (R47, R142), reset (R195),
and waiting. -/

namespace Sys2Proof.Machine

/-- Hand a response frame to the host (R20, R66): it joins the end of the response stream. -/
def State.emit (s : State) (g : Frame) : State := { s with responses := s.responses ++ [g] }

/-- Write `RK`, `RC` and `ST.KEYED` as one indivisible update (R47, R142). -/
def State.setKeyed (s : State) (rk : RoundKeys) (rc : RoundConstants) : State :=
  { s with st := .keyed rk rc }

/-- The events still to come, once the engine has taken the one before them (R20). -/
def State.withPending (s : State) (rest : List HostEvent) : State := { s with pending := rest }

/-- The reset event (R195): `ST.KEYED <- 0`, `RK` and `RC` cease to hold a value, and no response. -/
def State.resetEngine (s : State) : State := { s with st := .unkeyed }

/-- `raise <Status>` (R11, R177): taking an exception. The response is the status byte alone and the
engine's state is exactly what it was; nothing is saved, no vector is taken, nothing is latched. There is
no return from it (R178). -/
def raise (status : Status) (s : State) : Host.Outcome State Fault Refusal :=
  .next (s.emit [status.code])

/-- `respond(OK, data)` (R11, R66): the status byte 0x00, then the data. -/
def respond (data : List Byte) (s : State) : Host.Outcome State Fault Refusal :=
  .next (s.emit (Status.ok.code :: data))

/-- The state check of `ENC`, `DEC`, `RDRK` and `RDRC` (R74, R173): `NotKeyed` in the Unkeyed state
(C2 of 90_conflicts.md; assumption 9), otherwise go on with the register files. -/
def requireKeyed (s : State) (go : RoundKeys → RoundConstants → Host.Outcome State Fault Refusal) :
    Host.Outcome State Fault Refusal :=
  match s.st with
  | .unkeyed => raise .notKeyed s
  | .keyed rk rc => go rk rc

/-- The length check of `ENC` and `DEC` (R74, R172): `InvalidBlockSize` unless the operand has exactly 16
bytes. -/
def requireBlock (data : List Byte) (s : State) (go : Block → Host.Outcome State Fault Refusal) :
    Host.Outcome State Fault Refusal :=
  match toBlock? data with
  | none => raise .invalidBlockSize s
  | some blk => go blk

/-- No event is pending: the engine is idle and starts nothing by itself (R183, R195). DESIGN CHOICE,
safe (assumption 2). -/
def idle (s : State) : Host.Outcome State Fault Refusal := .next s

end Sys2Proof.Machine
end

