-- ==== Sys2Proof/Machine/Gf.lean ====
section
/-! DEFINITION. The GF(2^8) multiplier (42_gf_multiplier.md): `GfMul`, `GfInv` and the command `GFMUL`. -/

namespace Sys2Proof.Machine

/-- `GF_REDUCE`: x^8+x^7+x^6+x+1 without its x^8 term (R5, R110). -/
def gfReduce : Byte := 0xC3

/-- One step of the running multiplicand: shift left by one, and if the bit shifted out was set, XOR the
reduction constant in (R111). This is multiplication by x. -/
def gfShift (x : Byte) : Byte := bif x.getLsbD 7 then (x <<< 1) ^^^ gfReduce else x <<< 1

/-- The loop of R111 with `n` iterations to go: accumulator, running multiplicand, running multiplier. -/
def gfLoop : Nat → Byte → Byte → Byte → Byte
  | 0, acc, _, _ => acc
  | n + 1, acc, x, y => gfLoop n (bif y.getLsbD 0 then acc ^^^ x else acc) (gfShift x) (y >>> 1)

/-- `GfMul(a, b)`, eight iterations, `a` the multiplicand and `b` the multiplier (R111). -/
def gfMul (a b : Byte) : Byte := gfLoop 8 0 a b

/-- `acc` times `sq^2 * sq^4 * ... * sq^(2^n)` by repeated squaring. -/
def gfPowLoop : Nat → Byte → Byte → Byte
  | 0, acc, _ => acc
  | n + 1, acc, sq => gfPowLoop n (gfMul acc (gfMul sq sq)) (gfMul sq sq)

/-- `GfInv(a)` for `a != 0x00`: `a` raised to the power 254 = 2 + 4 + ... + 128 by repeated `GfMul` (R114).
Not defined at 0x00, where it is the free value of assumption 5. -/
def gfInv (a : Byte) : Byte := if a = 0 then Config.gfInvOfZero else gfPowLoop 7 1 a

/-- `GFMUL a, b` (R115): one data byte; no state read or written; admitted in both states. -/
def execGfmul (a b : Byte) (s : State) : Host.Outcome State Fault Refusal := respond [gfMul a b] s

end Sys2Proof.Machine
end

