-- ==== Sys2Proof/Machine/Diffusion.lean ====
section
/-! DEFINITION. The linear diffusion pipeline (43_diffusion.md): `LinSum`, `RStep`, `LDif`, `IRStep`,
`ILDif` and the commands `RSTEP`, `LDIF`, `IRSTEP`, `ILDIF`. -/

namespace Sys2Proof.Machine

/-- `LinSum(S)`: the XOR of `GfMul(S[i], LVEC[i])` over all 16 positions (R121). -/
def linSum (T : Tables) (s : Block) : Byte := xorSum (zipBlock gfMul s T.lvec).toList

/-- `RStep(S)`: every byte moves to the next lower index, `S[0]` leaves, and the weighted sum of the
original state enters at index 15 (R122, C1 of 90_conflicts.md). -/
def rStep (T : Tables) (s : Block) : Block := ⟨(s.toList.tail ++ [linSum T s]).toArray, by simp⟩

/-- `f` applied `n` times in sequence. -/
def iterate (f : Block → Block) : Nat → Block → Block
  | 0, s => s
  | n + 1, s => iterate f n (f s)

/-- `LDif(S)`: `RStep` exactly 16 times in sequence (R123). -/
def lDif (T : Tables) (s : Block) : Block := iterate (rStep T) 16 s

/-- The byte that `RStep` shifted out, solved from the weighted sum: `T[15]` XOR the terms of the
predecessor's indices 1..15, which hold `T[0..14]`, divided by `LVEC[0]` (R124). -/
def recovered (T : Tables) (t : Block) : Byte :=
  gfMul (gfInv T.lvec[0])
    (t[15] ^^^ xorSum (List.zipWith gfMul t.toList.dropLast T.lvec.toList.tail))

/-- `IRStep(T)`: every byte moves to the next higher index and the recovered byte enters at index 0
(R124). -/
def irStep (T : Tables) (t : Block) : Block := ⟨(recovered T t :: t.toList.dropLast).toArray, by simp⟩

/-- `ILDif(S)`: `IRStep` 16 times (R125). -/
def ilDif (T : Tables) (s : Block) : Block := iterate (irStep T) 16 s

/-- `RSTEP blk` (R127): no state read or written; admitted in both states. -/
def execRstep (blk : Block) (s : State) : Host.Outcome State Fault Refusal := respond (rStep tables blk).toList s

/-- `LDIF blk` (R128): no state read or written; admitted in both states. -/
def execLdif (blk : Block) (s : State) : Host.Outcome State Fault Refusal := respond (lDif tables blk).toList s

/-- `IRSTEP blk` (R129): no state read or written; admitted in both states. -/
def execIrstep (blk : Block) (s : State) : Host.Outcome State Fault Refusal := respond (irStep tables blk).toList s

/-- `ILDIF blk` (R130): no state read or written; admitted in both states. -/
def execIldif (blk : Block) (s : State) : Host.Outcome State Fault Refusal := respond (ilDif tables blk).toList s

end Sys2Proof.Machine
end

