-- ==== Sys2Proof/Machine/Constants.lean ====
section
/-! DEFINITION. The round-constant generator (44_round_constants.md): `Seed`, `Const`, the contents of `RC`
and the command `RDRC`. -/

namespace Sys2Proof.Machine

/-- `Seed(i)`: byte `i` at index 0, the other 15 bytes zero (R135). -/
def seed (i : Byte) : Block := #v[i, 0, 0, 0, 0, 0, 0, 0, 0, 0, 0, 0, 0, 0, 0, 0]

/-- `Const(i) = LDif(Seed(i))` (R136). -/
def roundConst (T : Tables) (i : Byte) : Block := lDif T (seed i)

/-- What `KEYINIT` writes into `RC`: `RC[j] = Const(j + 1)` for j = 0..31 (R137); it depends on no key
(C3 of 90_conflicts.md). -/
def roundConstants (T : Tables) : RoundConstants :=
  ⟨((List.range 32).map fun j => roundConst T (BitVec.ofNat 8 (j + 1))).toArray, by simp⟩

/-- `RDRC idx` (R138): the stored round constant, in the Keyed state only. -/
def execRdrc (idx : Fin 32) (s : State) : Host.Outcome State Fault Refusal :=
  requireKeyed s fun _ rc => respond rc[idx].toList s

end Sys2Proof.Machine
end

