-- ==== Sys2Proof/Machine/Sbox.lean ====
section
/-! DEFINITION. The S-box substitution engine (41_sbox.md): `Sub`, `ISub` and the commands `SUB`, `ISUB`. -/

namespace Sys2Proof.Machine

/-- `Sub(B)`: each of the 16 bytes independently through `PI` (R100, R103). -/
def sub (T : Tables) (b : Block) : Block := mapBlock T.pi b

/-- `ISub(B)`: each of the 16 bytes independently through `PI_INV` (R101, R103). -/
def iSub (T : Tables) (b : Block) : Block := mapBlock T.piInv b

/-- `SUB blk` (R104): no state read or written; admitted in both states. -/
def execSub (blk : Block) (s : State) : Host.Outcome State Fault Refusal := respond (sub tables blk).toList s

/-- `ISUB blk` (R105): no state read or written; admitted in both states. -/
def execIsub (blk : Block) (s : State) : Host.Outcome State Fault Refusal := respond (iSub tables blk).toList s

end Sys2Proof.Machine
end

