-- ==== Sys2Proof/Machine/KeySchedule.lean ====
section
/-! DEFINITION. The Feistel key-schedule engine (45_key_schedule.md): `Feistel`, `DeriveRoundKeys` and the
commands `KEYINIT`, `RDRK`. -/

namespace Sys2Proof.Machine

/-- `Feistel(L, R, C) = (LDif(Sub(L ^ C)) ^ R, L)` (R140). -/
def feistel (T : Tables) (lr : Block × Block) (c : Block) : Block × Block :=
  (xorBlock (lDif T (sub T (xorBlock lr.1 c))) lr.2, lr.1)

/-- Eight consecutive iterations, group `g` of 0..3: iterations j = 8g .. 8g+7 with constants `RC[j]` in
ascending order (R141). -/
def feistelGroup (T : Tables) (rc : RoundConstants) (g : Fin 4) (lr : Block × Block) : Block × Block :=
  (List.finRange 8).foldl (fun p k => feistel T p rc[8 * g.val + k.val]) lr

/-- `DeriveRoundKeys(K1, K2)` reading `RC` (R141): keys 0 and 1 are the halves, and the pair after each of
the four groups of eight iterations is the next two keys, left first. -/
def deriveRoundKeys (T : Tables) (rc : RoundConstants) (k1 k2 : Block) : RoundKeys :=
  let p1 := feistelGroup T rc 0 (k1, k2)
  let p2 := feistelGroup T rc 1 p1
  let p3 := feistelGroup T rc 2 p2
  let p4 := feistelGroup T rc 3 p3
  #v[k1, k2, p1.1, p1.2, p2.1, p2.2, p3.1, p3.2, p4.1, p4.2]

/-- `KEYINIT k1, k2` (R142): `AlreadyKeyed` in the Keyed state whatever the lengths; otherwise
`InvalidKeyLength` unless both halves have exactly 16 bytes; otherwise `RC`, `RK` and `ST.KEYED` are written
together and the response is OK without data. -/
def execKeyinit (k1 k2 : List Byte) (s : State) : Host.Outcome State Fault Refusal :=
  match s.st, toBlock? k1, toBlock? k2 with
  | .keyed _ _, _, _ => raise .alreadyKeyed s
  | .unkeyed, some b1, some b2 =>
    respond [] (s.setKeyed (deriveRoundKeys tables (roundConstants tables) b1 b2) (roundConstants tables))
  | .unkeyed, _, _ => raise .invalidKeyLength s

/-- `RDRK idx` (R143): the stored round key, in the Keyed state only. -/
def execRdrk (idx : Fin 10) (s : State) : Host.Outcome State Fault Refusal :=
  requireKeyed s fun rk _ => respond rk[idx].toList s

end Sys2Proof.Machine
end

