-- ==== Sys2Proof/Machine/Cipher.lean ====
section
/-! DEFINITION. The SPN encrypt/decrypt core (46_cipher_core.md): `Encrypt`, `Decrypt` and the commands
`ENC`, `DEC`. -/

namespace Sys2Proof.Machine

/-- One full round of `Encrypt`: key addition, substitution, diffusion (R155). -/
def encRound (T : Tables) (k b : Block) : Block := lDif T (sub T (xorBlock b k))

/-- One full round of `Decrypt`: inverse diffusion, inverse substitution, key addition (R156). -/
def decRound (T : Tables) (k b : Block) : Block := xorBlock k (iSub T (ilDif T b))

/-- `Encrypt(K, B)`: rounds r = 0..8 with `K[r]`, then `^ K[9]` (R155). -/
def encrypt (T : Tables) (k : RoundKeys) (b : Block) : Block :=
  xorBlock ((List.finRange 9).foldl (fun b r => encRound T k[r.val] b) b) k[9]

/-- `Decrypt(K, B)`: `^ K[9]`, then rounds r = 8 down to 0 with `K[r]` (R156). -/
def decrypt (T : Tables) (k : RoundKeys) (b : Block) : Block :=
  (List.finRange 9).foldr (fun r b => decRound T k[r.val] b) (xorBlock b k[9])

/-- `ENC data` (R160): the state check, then the length check, then one block; no state written. -/
def execEnc (data : List Byte) (s : State) : Host.Outcome State Fault Refusal :=
  requireKeyed s fun rk _ => requireBlock data s fun b => respond (encrypt tables rk b).toList s

/-- `DEC data` (R161): the state check, then the length check, then one block; no state written. -/
def execDec (data : List Byte) (s : State) : Host.Outcome State Fault Refusal :=
  requireKeyed s fun rk _ => requireBlock data s fun b => respond (decrypt tables rk b).toList s

end Sys2Proof.Machine
end

