-- ==== Sys2Proof/Machine/Dispatch.lean ====
section
/-! DEFINITION. One arm per command: its meaning. -/

namespace Sys2Proof.Machine

def exec (i : Instr) (s : State) : Host.Outcome State Fault Refusal :=
  match i with
  | .keyinit k1 k2 => Sys2Proof.Machine.execKeyinit k1 k2 s
  | .enc data => Sys2Proof.Machine.execEnc data s
  | .dec data => Sys2Proof.Machine.execDec data s
  | .sub blk => Sys2Proof.Machine.execSub blk s
  | .isub blk => Sys2Proof.Machine.execIsub blk s
  | .gfmul a b => Sys2Proof.Machine.execGfmul a b s
  | .rstep blk => Sys2Proof.Machine.execRstep blk s
  | .ldif blk => Sys2Proof.Machine.execLdif blk s
  | .irstep blk => Sys2Proof.Machine.execIrstep blk s
  | .ildif blk => Sys2Proof.Machine.execIldif blk s
  | .rdrk idx => Sys2Proof.Machine.execRdrk idx s
  | .rdrc idx => Sys2Proof.Machine.execRdrc idx s

end Sys2Proof.Machine
end

