-- ==== Sys2Proof/Machine/Execute.lean ====
section
/-! DEFINITION. Carrying out one event of the host: a command frame (R74) or reset (R195). -/

namespace Sys2Proof.Machine

/-- The engine's step on a command frame (R74): decode it, answer an illegal one with `IllegalCommand`
(R175), and carry out a legal one by its own rule, which holds its state check and its length check. -/
def stepFrame (f : Frame) (s : State) : Host.Outcome State Fault Refusal :=
  match decode f with
  | .error _ => raise .illegalCommand s
  | .ok i => exec i s

/-- One event, run to completion before the next is taken (R20, R48). A reset gives no response (R195); it falls
between commands (DEDUCED, safe, assumption 7). -/
def takeEvent (e : HostEvent) (s : State) : Host.Outcome State Fault Refusal :=
  match e with
  | .command f => stepFrame f s
  | .reset => .next s.resetEngine

end Sys2Proof.Machine
end

