-- ==== Sys2Proof/Machine/Step.lean ====
section
/-! DEFINITION. The step of the machine: the next pending event leaves the stream and takes effect (R20). -/

namespace Sys2Proof.Machine

/-- One step. Commands take effect one at a time in the order the engine takes them (R48); with no event
pending the engine is idle. -/
def step (s : State) : Host.Outcome State Fault Refusal :=
  match s.pending with
  | [] => idle s
  | e :: rest => takeEvent e (s.withPending rest)

/-- The frame of a table word put where the next step takes its command: at the head of the pending events.
Commands come from outside the machine (R28; DESIGN CHOICE, safe, assumption 3). -/
def State.withFetchWord (s : State) (nbits w : Nat) : State :=
  s.withPending (.command (frameOfWord nbits w) :: s.pending)

end Sys2Proof.Machine
end

