-- ==== Sys2Proof/Safety.lean ====
section
/-! DEFINITION. The terms claims are written in: the frames the spec calls reserved, the checks of a
command in their order, the response frames the spec allows, the states a run can be in, full diffusion,
and what R6 requires of the constant tables. -/

namespace Sys2Proof.Machine

/-- The opcode values outside R68, as R70 lists them: 0x00, 0x04..0x0F, 0x17..0x1F, 0x22..0xFF. -/
def reservedOpcode (op : Byte) : Prop :=
  op.toNat = 0x00 ∨ (0x04 ≤ op.toNat ∧ op.toNat ≤ 0x0F) ∨ (0x17 ≤ op.toNat ∧ op.toNat ≤ 0x1F) ∨
    (0x22 ≤ op.toNat ∧ op.toNat ≤ 0xFF)

/-- The reserved encodings of R70: the empty frame, a reserved opcode, a known opcode in a frame of a length
its format and length bytes do not require, `RDRK` with an index in 10..255, `RDRC` with one in 32..255. -/
def reservedFrame (f : Frame) : Prop :=
  f = [] ∨ (∃ op rest, f = op :: rest ∧ reservedOpcode op) ∨ (∃ n, frameLength? f = some n ∧ f.length ≠ n) ∨
    (∃ idx : Byte, f = [0x20, idx] ∧ 10 ≤ idx.toNat) ∨ (∃ idx : Byte, f = [0x21, idx] ∧ 32 ≤ idx.toNat)

/-- The state in which a response frame has joined the response stream and everything else, the engine's
state and the pending events, is as it was: the frame of every command but a successful `KEYINIT` (R31). -/
def State.answered (s : State) (g : Frame) : State where
  st := s.st
  pending := s.pending
  responses := s.responses ++ [g]

/-- The checks of R74 in their order: the status of the first that fails, none if the command is carried
out. -/
def failedCheck? (c : Except Illegal Instr) (k : KeyState) : Option Status :=
  match c with
  | .error _ => some .illegalCommand
  | .ok (.keyinit k1 k2) =>
    if k.flag = true then some .alreadyKeyed
    else if k1.length ≠ 16 ∨ k2.length ≠ 16 then some .invalidKeyLength
    else none
  | .ok (.enc data) | .ok (.dec data) =>
    if k.flag = false then some .notKeyed
    else if data.length ≠ 16 then some .invalidBlockSize
    else none
  | .ok (.rdrk _) | .ok (.rdrc _) => if k.flag = false then some .notKeyed else none
  | .ok (.sub _) | .ok (.isub _) | .ok (.gfmul _ _) | .ok (.rstep _) | .ok (.ldif _) | .ok (.irstep _)
  | .ok (.ildif _) => none

/-- A frame that is a `KEYINIT` with status OK in a state: the one command that changes the engine (R31). -/
def successfulKeyinit (f : Frame) (s : State) : Prop :=
  s.st = .unkeyed ∧ ∃ k1 k2 : Block, decode f = .ok (.keyinit k1.toList k2.toList)

/-- The response frames of R66 and R67: a status byte alone, 0x00..0x05, or status OK with one byte or one
Block of data. -/
def legalResponse (g : Frame) : Prop :=
  (∃ c : Byte, c.toNat ≤ 5 ∧ g = [c]) ∨
    (∃ data : List Byte, g = 0x00 :: data ∧ (data.length = 1 ∨ data.length = 16))

/-- How many data bytes the OK response of a command has (R66). -/
def responseDataLength : Op → Nat
  | .keyinit => 0
  | .gfmul => 1
  | .enc | .dec | .sub | .isub | .rstep | .ldif | .irstep | .ildif | .rdrk | .rdrc => 16

/-- The engine states a run can be in: Unkeyed, or Keyed with the generated constants in `RC` (R23) and the
keys derived from some two halves in `RK` (R22). -/
def KeyState.Derived : KeyState → Prop
  | .unkeyed => True
  | .keyed rk rc => rc = roundConstants tables ∧ ∃ k1 k2, rk = deriveRoundKeys tables rc k1 k2

/-- The invariant of the machine: a derived engine state, and every response emitted so far is legal. -/
structure State.Inv (s : State) : Prop where
  st : s.st.Derived
  responses : ∀ g ∈ s.responses, legalResponse g

/-- The pair `(L, R)` of the key schedule after `n` iterations, iteration j using `RC[j]`, as the one loop
over j = 0..31 that R141 writes. (`n` is at most 32, so the default is never read.) -/
def feistelPair (T : Tables) (rc : RoundConstants) (k1 k2 : Block) : Nat → Block × Block
  | 0 => (k1, k2)
  | n + 1 => feistel T (feistelPair T rc k1 k2 n) (rc.getD n (Vector.replicate 16 0))

/-- Full diffusion (R126 (d)): changing any one input byte of `LDif` to any other value changes every
output byte. -/
def FullDiffusion (T : Tables) : Prop :=
  ∀ (s : Block) (i j : Fin 16) (v : Byte), v ≠ s[i] → (lDif T (s.set i v))[j] ≠ (lDif T s)[j]

end Sys2Proof.Machine

namespace Sys2Proof

/-- Everything R6 requires of the three tables: `PI` and `PI_INV` are mutual inverses, hence bijections;
the diffusion built on `LVEC` is invertible, `LVEC[0]` not being zero; and it gives full diffusion. -/
structure Tables.Valid (T : Tables) : Prop extends T.Invertible where
  fullDiffusion : Machine.FullDiffusion T

end Sys2Proof
end

