-- ==== Sys2Proof/Certificates/Slice0/Obligations.lean ====
section
/-! DEFINITION. The statements for the provers. A next state is written with `State.answered`, which says
that the engine's state and the pending events are as before, or field by field. -/

open Sys2Proof Sys2Proof.Machine

/-! ## Encoding -/

/-- Decode and encode agree, one way: every well-formed command is read back from its frame, with every
operand at every value (R61 to R65, R69). -/
def Obligations.DecodeReadsEncodedCommand : Prop :=
  ∀ i : Instr, i.wellFormed = true → decode (encode i) = .ok i

/-- Decode and encode agree, the other way: a frame that decodes is the frame of the command it decodes to,
so each command has one frame (R61 to R65, R69). -/
def Obligations.DecodedFrameIsTheCommandsFrame : Prop :=
  ∀ (f : Frame) (i : Instr), decode f = .ok i → i.wellFormed = true ∧ encode i = f

/-- R70, a rule the spec marks as its own decision (D4, D10; log entry 9): the reserved encodings it lists
are exactly the frames `Decode` maps to `Illegal`, and each is answered with `IllegalCommand`, no data and
no state change. -/
def Obligations.ReservedFramesAreRefused : Prop :=
  ∀ f : Frame, (reservedFrame f ↔ ∃ e, decode f = .error e) ∧
    (reservedFrame f → ∀ s, stepFrame f s = .next (s.answered [0x05]))

/-- Frames written out from the formats of 30_encoding.md, one at least for each format. -/
def Obligations.WrittenOutFramesDecode : Prop :=
  decode [0x12, 0x94, 0x85] = .ok (.gfmul 0x94 0x85) ∧
  decode [0x01, 0x02, 0x01, 0xAA, 0xBB, 0xCC] = .ok (.keyinit [0xAA, 0xBB] [0xCC]) ∧
  decode [0x02, 0x01, 0x77] = .ok (.enc [0x77]) ∧
  decode [0x03, 0x00] = .ok (.dec []) ∧
  decode [0x13, 0, 1, 0, 0, 0, 0, 0, 0, 0, 0, 0, 0, 0, 0, 0, 2] =
    .ok (.rstep #v[0, 1, 0, 0, 0, 0, 0, 0, 0, 0, 0, 0, 0, 0, 0, 2]) ∧
  decode [0x20, 0x09] = .ok (.rdrk 9) ∧
  decode [0x21, 0x1F] = .ok (.rdrc 31)

/-- A word of the opcode table, put where the next step takes its command, runs as the command it decodes
to, in the state as it was (the model's interface to the host, assumption 3). -/
def Obligations.FetchedTableWordRuns : Prop :=
  ∀ (s : State) (nbits w : Nat) (i : Instr), decodeTableWord nbits w = some i →
    step (s.withFetchWord nbits w) = exec i s

/-! ## The step -/

/-- A step on a command frame takes it from the stream and runs the decoded command; a frame that does not
decode is answered with `IllegalCommand` (R20, R69, R175). -/
def Obligations.StepRunsTheDecodedCommand : Prop :=
  ∀ (s : State) (f : Frame) (rest : List HostEvent), s.pending = .command f :: rest →
    (∀ i, decode f = .ok i → step s = exec i { s with pending := rest }) ∧
    (∀ e, decode f = .error e →
      step s = .next { s with pending := rest, responses := s.responses ++ [[0x05]] })

/-- With no event pending the engine starts nothing and nothing changes (R183, R195; that such a step is a
next state is the model's choice, assumption 2). -/
def Obligations.IdleEngineStartsNothing : Prop :=
  ∀ s : State, s.pending = [] → step s = .next s

/-- R74: the checks are made in order; the first that fails ends the command with its status byte alone and
the state as it was, and if none fails the response has status OK. The order, and `NotKeyed` for an Unkeyed
`ENC` or `DEC` (the default of the open parameter `UNKEYED_STATUS`), are the spec's own choice (R176, D9;
log entry 9, unsafe for that status byte). -/
def Obligations.ChecksEndTheCommandInOrder : Prop :=
  ∀ (f : Frame) (s : State),
    (∀ status, failedCheck? (decode f) s.st = some status →
      stepFrame f s = .next (s.answered [status.code])) ∧
    (failedCheck? (decode f) s.st = none →
      ∃ i data t, decode f = .ok i ∧ stepFrame f s = exec i s ∧ exec i s = .next t ∧
        t.pending = s.pending ∧ t.responses = s.responses ++ [0x00 :: data])

/-- R66: every command taken gets exactly one response frame, a status byte alone if the status is not OK,
otherwise status OK with as many data bytes as its command has; and the step always completes (R200). -/
def Obligations.EveryCommandGetsOneResponse : Prop :=
  ∀ (s : State) (f : Frame) (rest : List HostEvent), s.pending = .command f :: rest →
    ∃ t g, step s = .next t ∧ t.pending = rest ∧ t.responses = s.responses ++ [g] ∧
      ((∃ c : Byte, 1 ≤ c.toNat ∧ c.toNat ≤ 5 ∧ g = [c]) ∨
        ∃ i data, decode f = .ok i ∧ g = 0x00 :: data ∧ data.length = responseDataLength i.op)

/-! ## State, reset and invariants -/

/-- R32: after reset the engine is Unkeyed, so that `RK` and `RC` hold no value, and no response is pending.
(That no event is pending is the model's own field, assumption 1.) -/
def Obligations.ResetLeavesAnUnkeyedEngine : Prop :=
  State.reset.st = .unkeyed ∧ State.reset.st.flag = false ∧ State.reset.responses = [] ∧
    State.reset.pending = []

/-- R195: the reset event voids the engine's state and gives no response, and it is the only transition from
Keyed to Unkeyed. That the responses emitted before stay is the model's choice (log entry 1, DESIGN CHOICE),
and that reset is an event of the pending stream, taken between commands, is deduced from R195 (log entry 7,
DEDUCED). -/
def Obligations.OnlyResetLeavesTheKeyedState : Prop :=
  (∀ (s : State) (rest : List HostEvent), s.pending = .reset :: rest →
    step s = .next { st := .unkeyed, pending := rest, responses := s.responses }) ∧
  (∀ s t : State, step s = .next t → s.st.flag = true → t.st = .unkeyed →
    ∃ rest, s.pending = .reset :: rest)

/-- R31: the only command that changes the engine's state is a `KEYINIT` that ends with status OK, which
needs the Unkeyed state and enters the Keyed state; a response with another status leaves everything else as
it was; and a Keyed engine's registers stay until the next reset. -/
def Obligations.OnlySuccessfulKeyinitChangesTheEngine : Prop :=
  (∀ (i : Instr) (s t : State), exec i s = .next t → t.st ≠ s.st →
    s.st = .unkeyed ∧ t.st.flag = true ∧ (∃ k1 k2, i = .keyinit k1 k2) ∧
      t.responses = s.responses ++ [[0x00]]) ∧
  (∀ (f : Frame) (s t : State) (g : Frame), stepFrame f s = .next t → t.responses = s.responses ++ [g] →
    g.head? ≠ some 0x00 → t.st = s.st) ∧
  (∀ s t : State, step s = .next t → s.st.flag = true →
    t.st = s.st ∨ ∃ rest, s.pending = .reset :: rest)

/-- The frame of every command: the pending events stay, the responses grow by one frame at the end, and
the engine's state stays but for a `KEYINIT` in the Unkeyed state with two 16-byte halves. -/
def Obligations.CommandFrame : Prop :=
  ∀ (i : Instr) (s t : State), exec i s = .next t →
    t.pending = s.pending ∧ (∃ g, t.responses = s.responses ++ [g]) ∧
    (t.st = s.st ∨ (s.st = .unkeyed ∧ ∃ k1 k2 : Block, i = .keyinit k1.toList k2.toList))

/-- The invariant holds after reset. -/
def Obligations.ResetMeetsTheInvariant : Prop := State.reset.Inv

/-- Every step keeps the invariant: `RC` holds the generated constants (R23, R137), `RK` a derived key
schedule (R22, R141), or the engine is Unkeyed; and every response is one of R66 and R67. -/
def Obligations.EveryStepKeepsTheInvariant : Prop :=
  ∀ s t : State, s.Inv → step s = .next t → t.Inv

/-- R177, a rule the spec marks as its own decision (D12; log entry 9): a refusal is the status byte alone,
and the engine's state and the pending events are exactly what they were; no partial effect. -/
def Obligations.RefusalHasNoEffect : Prop :=
  ∀ (f : Frame) (s t : State) (g : Frame), stepFrame f s = .next t → t.responses = s.responses ++ [g] →
    g.head? ≠ some 0x00 → t = s.answered g ∧ ∃ status : Status, status ≠ .ok ∧ g = [status.code]

/-- A refused frame is refused again in the state its refusal leaves (R178). -/
def Obligations.RefusedFrameIsRefusedAgain : Prop :=
  ∀ (f : Frame) (s : State) (c : Byte), c ≠ 0x00 → stepFrame f s = .next (s.answered [c]) →
    stepFrame f (s.answered [c]) = .next ((s.answered [c]).answered [c])

/-- R48 (b): any two commands other than a successful `KEYINIT` commute, their responses not depending on
their relative order. -/
def Obligations.OtherCommandsCommute : Prop :=
  ∀ (f g : Frame) (s : State), ¬ successfulKeyinit f s → ¬ successfulKeyinit g s →
    ∃ a b, stepFrame f s = .next (s.answered a) ∧ stepFrame g s = .next (s.answered b) ∧
      stepFrame g (s.answered a) = .next ((s.answered a).answered b) ∧
      stepFrame f (s.answered b) = .next ((s.answered b).answered a)

/-- Responses are outputs: no step reads those emitted before (R20, R29). -/
def Obligations.ResponsesAreNeverRead : Prop :=
  ∀ (s t : State) (other : List Frame), step s = .next t →
    ∃ out, t.responses = s.responses ++ out ∧
      step { s with responses := other } = .next { t with responses := other ++ out }

/-! ## S-box substitution engine -/

/-- R102: `PI` and `PI_INV` are mutual inverses over the full closed table. That they are bijections and that
`Sub` and `ISub` undo each other on every Block are consequences the spec derives from R100 and R101. All of
it is said of the standard values of the tables (log entry 4, PRESUMED). -/
def Obligations.SubstitutionTablesAreMutualInverses : Prop :=
  (∀ v, tables.piInv (tables.pi v) = v) ∧ (∀ v, tables.pi (tables.piInv v) = v) ∧
  Function.Bijective tables.pi ∧ Function.Bijective tables.piInv ∧
  (∀ b, iSub tables (sub tables b) = b) ∧ (∀ b, sub tables (iSub tables b) = b)

/-- R103, which the spec derives from R100 and R101: output byte i depends on input byte i only, through
the same table at every position; `Sub` is not linear. The clauses after the first rest on the values of the
tables (log entry 4, PRESUMED). -/
def Obligations.SubstitutionLanesAreIndependent : Prop :=
  (∀ (a b : Block) (i j : Fin 16), a[i] = b[j] →
    (sub tables a)[i] = (sub tables b)[j] ∧ (iSub tables a)[i] = (iSub tables b)[j]) ∧
  (∃ a b : Block, sub tables (xorBlock a b) ≠ xorBlock (sub tables a) (sub tables b)) ∧
  tables.pi 0x00 ^^^ tables.pi 0x01 = 0x12 ∧ tables.pi 0x01 = 0xEE

/-- R104: `SUB` answers OK with each byte looked up in `PI`, in both states, changing nothing; a frame of
another length is illegal. That the command exists is the spec's own decision (D11; log entry 9); the printed
examples rest on the values of the table (log entry 4, PRESUMED) and are GOST strings (D3; log entry 9). -/
def Obligations.SubAnswersTheSubstitutedBlock : Prop :=
  ∀ s : State,
    (∀ blk, exec (.sub blk) s = .next (s.answered (0x00 :: blk.toList.map tables.pi))) ∧
    (∀ blk : Block, decode (0x10 :: blk.toList) = .ok (.sub blk)) ∧
    (∀ rest : List Byte, rest.length ≠ 16 → stepFrame (0x10 :: rest) s = .next (s.answered [0x05])) ∧
    sub tables (Vector.replicate 16 0) = Vector.replicate 16 0xFC ∧
    sub tables (gost 0xffeeddccbbaa99881122334455667700) = gost 0xb66cd8887d38e8d77765aeea0c9a7efc

/-- R105: `ISUB` answers OK with each byte looked up in `PI_INV`, in both states, changing nothing; a frame
of another length is illegal. That the command exists is the spec's own decision (D11; log entry 9); the
printed examples rest on the values of the table (log entry 4, PRESUMED) and are GOST strings (D3; log
entry 9). -/
def Obligations.IsubAnswersTheInverseSubstitutedBlock : Prop :=
  ∀ s : State,
    (∀ blk, exec (.isub blk) s = .next (s.answered (0x00 :: blk.toList.map tables.piInv))) ∧
    (∀ blk : Block, decode (0x11 :: blk.toList) = .ok (.isub blk)) ∧
    (∀ rest : List Byte, rest.length ≠ 16 → stepFrame (0x11 :: rest) s = .next (s.answered [0x05])) ∧
    iSub tables (Vector.replicate 16 0) = Vector.replicate 16 0xA5 ∧
    iSub tables (gost 0xb66cd8887d38e8d77765aeea0c9a7efc) = gost 0xffeeddccbbaa99881122334455667700

/-! ## GF(2^8) multiplier -/

/-- `GfMul` is multiplication of polynomials over GF(2) modulo x^8+x^7+x^6+x+1, bit i of a byte being the
coefficient of x^i, and `^` is their addition (R110). -/
def Obligations.GfMulIsThePolynomialProduct : Prop :=
  ∀ (P : Byte → Polynomial (ZMod 2)),
    (∀ v, P v = ∑ i : Fin 8, if v.getLsbD i then Polynomial.X ^ i.val else 0) →
    (∀ a b, P (a ^^^ b) = P a + P b) ∧
    (∀ a b, (Polynomial.X ^ 8 + Polynomial.X ^ 7 + Polynomial.X ^ 6 + Polynomial.X + 1) ∣
      P (gfMul a b) - P a * P b) ∧
    P 0x00 = 0 ∧ P 0x01 = 1

/-- R112: the laws (a) to (f) of `GfMul`. Laws (c) and (f) are the spec's own inferences, (c) from the
field's distributive law and (f) from the polynomial being irreducible. -/
def Obligations.GfMulLaws : Prop :=
  (∀ a b, gfMul a b = gfMul b a) ∧
  (∀ a b c, gfMul (gfMul a b) c = gfMul a (gfMul b c)) ∧
  (∀ a b c, gfMul a (b ^^^ c) = gfMul a b ^^^ gfMul a c) ∧
  (∀ a, gfMul a 0x00 = 0x00 ∧ gfMul 0x00 a = 0x00) ∧
  (∀ a, gfMul a 0x01 = a ∧ gfMul 0x01 a = a) ∧
  (∀ a b, gfMul a b = 0x00 → a = 0x00 ∨ b = 0x00)

/-- R114: for a non-zero byte `GfInv` is the unique inverse, the 254th power; `GfInv(0x01) = 0x01`. The
spec derives this rule from R110 and R112; its source does not name the function. -/
def Obligations.GfInvIsTheUniqueInverse : Prop :=
  (∀ a, a ≠ 0x00 → gfMul a (gfInv a) = 0x01 ∧ (∀ y, gfMul a y = 0x01 → y = gfInv a) ∧
    gfInv a = (fun y => gfMul y a)^[254] 0x01) ∧
  gfInv 0x01 = 0x01

/-- R115: `GFMUL` answers OK with the one-byte product, in both states, changing nothing; a frame of another
length is illegal. That the command exists is the spec's own decision (D11; log entry 9). -/
def Obligations.GfmulAnswersTheProduct : Prop :=
  ∀ s : State,
    (∀ a b, exec (.gfmul a b) s = .next (s.answered [0x00, gfMul a b])) ∧
    (∀ a b : Byte, decode [0x12, a, b] = .ok (.gfmul a b)) ∧
    (∀ rest : List Byte, rest.length ≠ 2 → stepFrame (0x12 :: rest) s = .next (s.answered [0x05])) ∧
    (∀ a, gfMul a 0x00 = 0x00 ∧ gfMul 0x00 a = 0x00 ∧ gfMul a 0x01 = a ∧ gfMul 0x01 a = a) ∧
    (∀ a b, gfMul a b = gfMul b a) ∧
    gfMul 0x02 0x80 = 0xC3 ∧ gfMul 0x10 0x10 = 0xC3 ∧ gfMul 0x94 0x85 = 0x64

/-! ## Linear diffusion pipeline -/

/-- R121, R122: `LinSum` is the XOR of the sixteen weighted bytes, same index; `RStep` moves every byte to
the next lower index and puts the sum of the original state at index 15. -/
def Obligations.RStepShiftsDownAndFeedsTheSumBack : Prop :=
  ∀ (T : Tables) (s : Block),
    linSum T s = gfMul s[0] T.lvec[0] ^^^ gfMul s[1] T.lvec[1] ^^^ gfMul s[2] T.lvec[2] ^^^
      gfMul s[3] T.lvec[3] ^^^ gfMul s[4] T.lvec[4] ^^^ gfMul s[5] T.lvec[5] ^^^ gfMul s[6] T.lvec[6] ^^^
      gfMul s[7] T.lvec[7] ^^^ gfMul s[8] T.lvec[8] ^^^ gfMul s[9] T.lvec[9] ^^^ gfMul s[10] T.lvec[10] ^^^
      gfMul s[11] T.lvec[11] ^^^ gfMul s[12] T.lvec[12] ^^^ gfMul s[13] T.lvec[13] ^^^
      gfMul s[14] T.lvec[14] ^^^ gfMul s[15] T.lvec[15] ∧
    (∀ (i : Nat) (hi : i < 15), (rStep T s)[i] = s[i + 1]) ∧
    (rStep T s)[15] = linSum T s

/-- R123, R125: `LDif` is sixteen `RStep`, `ILDif` sixteen `IRStep`; byte k of `LDif(S)` is the weighted sum
of the state before step k + 1. -/
def Obligations.LDifIsSixteenSteps : Prop :=
  ∀ (T : Tables) (s : Block),
    lDif T s = (rStep T)^[16] s ∧ ilDif T s = (irStep T)^[16] s ∧
    ∀ k : Fin 16, (lDif T s)[k] = linSum T ((rStep T)^[k.val] s)

/-- R124: `IRStep` moves every byte to the next higher index and recovers the byte that left from the
weighted sum, divided by `LVEC[0]`; it undoes `RStep` when `LVEC[0]` is not zero, and no inverse exists when
it is. With the standard vector `LVEC[0]` is one and the division changes nothing (log entry 4, PRESUMED).
The spec derives this rule from R122, R112 and R114; its source gives no formula (N15). Where `LVEC[0]` is
zero the clause for index 0 speaks of the free value `GfInv(0x00)` and holds whatever that value is (log
entry 5, DESIGN CHOICE). -/
def Obligations.IRStepRecoversTheByteThatLeft : Prop :=
  (∀ (T : Tables) (t : Block),
    (∀ (i : Nat) (hi : i < 15), (irStep T t)[i + 1] = t[i]) ∧
    (irStep T t)[0] = gfMul (gfInv T.lvec[0]) (t[15] ^^^ gfMul t[0] T.lvec[1] ^^^ gfMul t[1] T.lvec[2] ^^^
      gfMul t[2] T.lvec[3] ^^^ gfMul t[3] T.lvec[4] ^^^ gfMul t[4] T.lvec[5] ^^^ gfMul t[5] T.lvec[6] ^^^
      gfMul t[6] T.lvec[7] ^^^ gfMul t[7] T.lvec[8] ^^^ gfMul t[8] T.lvec[9] ^^^ gfMul t[9] T.lvec[10] ^^^
      gfMul t[10] T.lvec[11] ^^^ gfMul t[11] T.lvec[12] ^^^ gfMul t[12] T.lvec[13] ^^^
      gfMul t[13] T.lvec[14] ^^^ gfMul t[14] T.lvec[15])) ∧
  (∀ T : Tables, T.lvec[0] ≠ 0x00 → ∀ s, irStep T (rStep T s) = s) ∧
  (∀ T : Tables, T.lvec[0] = 0x00 → ¬ Function.Injective (rStep T)) ∧
  tables.lvec[0] = 0x01 ∧ ∀ acc, gfMul (gfInv tables.lvec[0]) acc = acc

/-- R126 (a), (b): with invertible tables, the steps and the transforms undo each other exactly on every
Block, and all four functions are bijections. -/
def Obligations.DiffusionAndInverseAreMutualInverses : Prop :=
  ∀ T : Tables, T.Invertible →
    (∀ s, irStep T (rStep T s) = s) ∧ (∀ s, rStep T (irStep T s) = s) ∧
    (∀ s, ilDif T (lDif T s) = s) ∧ (∀ s, lDif T (ilDif T s) = s) ∧
    Function.Bijective (rStep T) ∧ Function.Bijective (irStep T) ∧
    Function.Bijective (lDif T) ∧ Function.Bijective (ilDif T)

/-- R126 (c): the four functions are linear over `^` and map the all-zero Block to itself. -/
def Obligations.DiffusionIsLinear : Prop :=
  ∀ (T : Tables) (f : Block → Block), f = rStep T ∨ f = irStep T ∨ f = lDif T ∨ f = ilDif T →
    (∀ a b, f (xorBlock a b) = xorBlock (f a) (f b)) ∧
    f (Vector.replicate 16 0) = Vector.replicate 16 0

/-- R126 (d): with the standard vector, whose values are log entry 4 (PRESUMED), every output byte of `LDif`
depends on every input byte. -/
def Obligations.LDifHasFullDiffusion : Prop := FullDiffusion tables

/-- R6: the standard tables, whose values are log entry 4 (PRESUMED), meet every constraint it puts on them,
and full diffusion is a constraint of its own: some tables meet all the others and lack it. -/
def Obligations.StandardTablesMeetTheirConstraints : Prop :=
  tables.Valid ∧ ∃ T : Tables, T.Invertible ∧ ¬ T.Valid

/-- R127 to R130: `RSTEP`, `LDIF`, `IRSTEP` and `ILDIF` answer OK with their function's Block, in both
states, changing nothing; a frame of another length is illegal; the printed examples. That the commands
exist is the spec's own decision (D11; log entry 9); the examples rest on the values of `LVEC` (log entry 4,
PRESUMED) and are GOST strings (D3; log entry 9). -/
def Obligations.DiffusionCommandsAnswerTheirFunctions : Prop :=
  ∀ s : State,
    (∀ blk, exec (.rstep blk) s = .next (s.answered (0x00 :: (rStep tables blk).toList)) ∧
      exec (.ldif blk) s = .next (s.answered (0x00 :: (lDif tables blk).toList)) ∧
      exec (.irstep blk) s = .next (s.answered (0x00 :: (irStep tables blk).toList)) ∧
      exec (.ildif blk) s = .next (s.answered (0x00 :: (ilDif tables blk).toList))) ∧
    (∀ blk : Block, decode (0x13 :: blk.toList) = .ok (.rstep blk) ∧
      decode (0x14 :: blk.toList) = .ok (.ldif blk) ∧ decode (0x15 :: blk.toList) = .ok (.irstep blk) ∧
      decode (0x16 :: blk.toList) = .ok (.ildif blk)) ∧
    (∀ rest : List Byte, rest.length ≠ 16 →
      stepFrame (0x13 :: rest) s = .next (s.answered [0x05]) ∧
      stepFrame (0x14 :: rest) s = .next (s.answered [0x05]) ∧
      stepFrame (0x15 :: rest) s = .next (s.answered [0x05]) ∧
      stepFrame (0x16 :: rest) s = .next (s.answered [0x05])) ∧
    rStep tables (gost 0x00000000000000000000000000000100) = gost 0x94000000000000000000000000000001 ∧
    lDif tables (gost 0x64a59400000000000000000000000000) = gost 0xd456584dd0e3e84cc3166e4b7fa2890d ∧
    irStep tables (gost 0x94000000000000000000000000000001) = gost 0x00000000000000000000000000000100 ∧
    ilDif tables (gost 0xd456584dd0e3e84cc3166e4b7fa2890d) = gost 0x64a59400000000000000000000000000

/-! ## Round-constant generator -/

/-- R135, R136: round constant j is the diffusion of the block with j + 1 at index 0 and zeros elsewhere,
byte k of it is byte k of the first constant times j + 1, and with invertible tables all 32 are distinct
and none is zero, which the spec derives from `LDif` being a bijection; the first constant of the standard
vector is the printed one (its values are log entry 4, PRESUMED), as a GOST string (D3; log entry 9). -/
def Obligations.RoundConstantsAreDiffusedSeeds : Prop :=
  (roundConstants tables)[0] = gost 0x6ea276726c487ab85d27bd10dd849401 ∧
  ∀ T : Tables,
    (∀ j : Fin 32, (roundConstants T)[j] =
      lDif T #v[BitVec.ofNat 8 (j.val + 1), 0, 0, 0, 0, 0, 0, 0, 0, 0, 0, 0, 0, 0, 0, 0]) ∧
    (∀ (j : Fin 32) (k : Fin 16), (roundConstants T)[j][k] =
      gfMul (BitVec.ofNat 8 (j.val + 1)) (roundConstants T)[0][k]) ∧
    (T.Invertible → (∀ i j : Fin 32, (roundConstants T)[i] = (roundConstants T)[j] → i = j) ∧
      ∀ j : Fin 32, (roundConstants T)[j] ≠ Vector.replicate 16 0)

/-- R138: `RDRC` answers OK with the stored constant when Keyed, `NotKeyed` when Unkeyed, changing nothing;
in a derived state the value is `Const(idx + 1)` whatever key was loaded; other frames are illegal. That
the command exists is the spec's own decision (D11; log entry 9). -/
def Obligations.RdrcReadsTheStoredConstant : Prop :=
  ∀ (s : State) (idx : Fin 32),
    (s.st = .unkeyed → exec (.rdrc idx) s = .next (s.answered [0x03])) ∧
    (∀ rk rc, s.st = .keyed rk rc → exec (.rdrc idx) s = .next (s.answered (0x00 :: rc[idx].toList))) ∧
    (s.st.Derived → s.st.flag = true → exec (.rdrc idx) s =
      .next (s.answered (0x00 :: (roundConst tables (BitVec.ofNat 8 (idx.val + 1))).toList))) ∧
    decode [0x21, BitVec.ofNat 8 idx.val] = .ok (.rdrc idx) ∧
    (∀ rest : List Byte, rest.length ≠ 1 ∨ (∃ b : Byte, rest = [b] ∧ 32 ≤ b.toNat) →
      stepFrame (0x21 :: rest) s = .next (s.answered [0x05]))

/-! ## Feistel key-schedule engine -/

/-- R140: one iteration, and its inverse: `(L, R) = (newR, LDif(Sub(newR ^ C)) ^ newL)`, so it is a
bijection on pairs for every constant. These last two clauses, the inverse and the bijection, are the spec's
own inference. -/
def Obligations.FeistelIterationIsInvertible : Prop :=
  ∀ (T : Tables) (l r c : Block),
    feistel T (l, r) c = (xorBlock (lDif T (sub T (xorBlock l c))) r, l) ∧
    (∀ newL newR, feistel T (l, r) c = (newL, newR) →
      l = newR ∧ r = xorBlock (lDif T (sub T (xorBlock newR c))) newL) ∧
    Function.Bijective (fun p => feistel T p c)

/-- R141: round keys 0 and 1 are the halves, and keys 2g, 2g+1 are the pair of the one loop over 32
iterations after 8g of them, left first. That the loop starts from `(K1, K2)` with `K1` on the left, and that
the left half is captured first, are the spec's own reading (R141, N6; log entry 9, DEDUCED). -/
def Obligations.RoundKeysAreThePairsOfOneLoop : Prop :=
  ∀ (T : Tables) (rc : RoundConstants) (k1 k2 : Block),
    (deriveRoundKeys T rc k1 k2)[0] = k1 ∧ (deriveRoundKeys T rc k1 k2)[1] = k2 ∧
    ∀ (g : Nat) (hg : g < 5),
      (deriveRoundKeys T rc k1 k2)[2 * g] = (feistelPair T rc k1 k2 (8 * g)).1 ∧
      (deriveRoundKeys T rc k1 k2)[2 * g + 1] = (feistelPair T rc k1 k2 (8 * g)).2

/-- `KEYINIT` (R142): with two 16-byte halves in the Unkeyed state it writes the constants, the derived keys
and the Keyed state together and answers OK without data; in the Keyed state it is refused whatever the
lengths, and in the Unkeyed state with a wrong length, changing nothing. `AlreadyKeyed` and the order of the
checks are the spec's own decisions (D8, D9; log entry 9). -/
def Obligations.KeyinitConstructsTheInstance : Prop :=
  (∀ (s : State) (k1 k2 : Block), s.st = .unkeyed →
    ∃ rk : RoundKeys, rk = deriveRoundKeys tables (roundConstants tables) k1 k2 ∧ rk[0] = k1 ∧ rk[1] = k2 ∧
      exec (.keyinit k1.toList k2.toList) s =
        .next { st := .keyed rk (roundConstants tables), pending := s.pending,
                responses := s.responses ++ [[0x00]] }) ∧
  (∀ (s : State) (k1 k2 : List Byte), s.st.flag = true →
    exec (.keyinit k1 k2) s = .next (s.answered [0x04])) ∧
  (∀ (s : State) (k1 k2 : List Byte), s.st = .unkeyed → (k1.length ≠ 16 ∨ k2.length ≠ 16) →
    exec (.keyinit k1 k2) s = .next (s.answered [0x01]))

/-- R143: `RDRK` answers OK with the stored round key when Keyed, `NotKeyed` when Unkeyed, changing nothing;
after a successful `KEYINIT` keys 0 and 1 are the halves as loaded; other frames are illegal. That the
command exists is the spec's own decision (D11; log entry 9). -/
def Obligations.RdrkReadsTheStoredKey : Prop :=
  (∀ (s : State) (idx : Fin 10),
    (s.st = .unkeyed → exec (.rdrk idx) s = .next (s.answered [0x03])) ∧
    (∀ rk rc, s.st = .keyed rk rc → exec (.rdrk idx) s = .next (s.answered (0x00 :: rk[idx].toList))) ∧
    decode [0x20, BitVec.ofNat 8 idx.val] = .ok (.rdrk idx) ∧
    (∀ rest : List Byte, rest.length ≠ 1 ∨ (∃ b : Byte, rest = [b] ∧ 10 ≤ b.toNat) →
      stepFrame (0x20 :: rest) s = .next (s.answered [0x05]))) ∧
  (∀ (s t : State) (k1 k2 : Block), s.st = .unkeyed → exec (.keyinit k1.toList k2.toList) s = .next t →
    exec (.rdrk 0) t = .next (t.answered (0x00 :: k1.toList)) ∧
    exec (.rdrk 1) t = .next (t.answered (0x00 :: k2.toList)))

/-! ## SPN encrypt/decrypt core -/

/-- R155: nine rounds of key addition, substitution and diffusion with K[0] to K[8] in ascending order, then
K[9] is added. -/
def Obligations.EncryptIsNineRoundsThenAKey : Prop :=
  ∀ (T : Tables) (k : RoundKeys) (b : Block) (round : Fin 9 → Block → Block),
    (∀ r x, round r x = lDif T (sub T (xorBlock x k[r.val]))) →
    encrypt T k b = xorBlock (round 8 (round 7 (round 6 (round 5 (round 4 (round 3 (round 2 (round 1
      (round 0 b))))))))) k[9]

/-- R156: K[9] is added, then nine rounds of inverse diffusion, inverse substitution and key addition with
K[8] to K[0] in descending order. -/
def Obligations.DecryptIsAKeyThenNineRounds : Prop :=
  ∀ (T : Tables) (k : RoundKeys) (b : Block) (round : Fin 9 → Block → Block),
    (∀ r x, round r x = xorBlock k[r.val] (iSub T (ilDif T x))) →
    decrypt T k b = round 0 (round 1 (round 2 (round 3 (round 4 (round 5 (round 6 (round 7 (round 8
      (xorBlock b k[9])))))))))

/-- R157 (a), (b), the primary correctness contract: with invertible tables, `Decrypt` undoes `Encrypt`
and `Encrypt` undoes `Decrypt` for every Block and any ten round keys. -/
def Obligations.DecryptUndoesEncrypt : Prop :=
  ∀ T : Tables, T.Invertible → ∀ (k : RoundKeys) (b : Block),
    decrypt T k (encrypt T k b) = b ∧ encrypt T k (decrypt T k b) = b

/-- R157 (d): the reference key and plaintext give the standard published ciphertext, and decrypting it gives
the plaintext back. It rests on the values of the tables (log entry 4, PRESUMED, unsafe), on a ciphertext the
spec supplies from general knowledge (G4, log entry 4), and on the reading of printed strings as GOST strings,
the spec's own decision (D3; log entry 9). -/
def Obligations.ReferenceVectorEncrypts : Prop :=
  encrypt tables (deriveRoundKeys tables (roundConstants tables)
      (gost 0x8899aabbccddeeff0011223344556677) (gost 0xfedcba98765432100123456789abcdef))
    (gost 0x1122334455667700ffeeddccbbaa9988) = gost 0x7f679d90bebc24305a468d42b9d4edcd ∧
  decrypt tables (deriveRoundKeys tables (roundConstants tables)
      (gost 0x8899aabbccddeeff0011223344556677) (gost 0xfedcba98765432100123456789abcdef))
    (gost 0x7f679d90bebc24305a468d42b9d4edcd) = gost 0x1122334455667700ffeeddccbbaa9988

/-- `ENC` and `DEC` (R160, R161): `NotKeyed` in the Unkeyed state whatever the length; when Keyed,
`InvalidBlockSize` unless the operand has 16 bytes, and for a Block, OK with the encrypted or decrypted
Block; the state is not changed in any case. The status 0x03 for an Unkeyed engine is not the rules' own but
the default of the open parameter `UNKEYED_STATUS` (D9, U11; log entry 9, DEDUCED, unsafe for this byte). -/
def Obligations.EncAndDecAnswerOneBlock : Prop :=
  (∀ (s : State) (data : List Byte), s.st = .unkeyed →
    exec (.enc data) s = .next (s.answered [0x03]) ∧ exec (.dec data) s = .next (s.answered [0x03])) ∧
  (∀ (s : State) (data : List Byte), s.st.flag = true → data.length ≠ 16 →
    exec (.enc data) s = .next (s.answered [0x02]) ∧ exec (.dec data) s = .next (s.answered [0x02])) ∧
  (∀ (s : State) (rk : RoundKeys) (rc : RoundConstants) (b : Block), s.st = .keyed rk rc →
    exec (.enc b.toList) s = .next (s.answered (0x00 :: (encrypt tables rk b).toList)) ∧
    exec (.dec b.toList) s = .next (s.answered (0x00 :: (decrypt tables rk b).toList)))

/-- The contract at the command port: in any Keyed state, `ENC` of a Block answers a Block that `DEC`, taken
next, answers with the plaintext (R157 (a), R160, R161). The commands use the standard tables, of which it
needs no more than that they are invertible (log entry 4, PRESUMED). -/
def Obligations.DecAfterEncAnswersThePlaintext : Prop :=
  ∀ (s : State) (b : Block), s.st.flag = true →
    ∃ c : Block, exec (.enc b.toList) s = .next (s.answered (0x00 :: c.toList)) ∧
      exec (.dec c.toList) (s.answered (0x00 :: c.toList)) =
        .next ((s.answered (0x00 :: c.toList)).answered (0x00 :: b.toList))
end

