-- ==== Sys2Proof/Laws/Blocks.lean ====
section
/-! SUPPORT. What the Block operations put at each byte index, the length rule, and the algebra of `^` on
Blocks. -/

namespace Sys2Proof.Machine

variable (T : Tables)

/-- A Block is determined by its bytes. -/
theorem block_ext {a b : Block} (h : ∀ i (hi : i < 16), a[i] = b[i]) : a = b := Vector.ext h

@[simp] theorem mapBlock_getElem (f : Byte → Byte) (b : Block) (i : Nat) (hi : i < 16) :
    (mapBlock f b)[i] = f b[i] := by simp [mapBlock]

@[simp] theorem zipBlock_getElem (f : Byte → Byte → Byte) (a b : Block) (i : Nat) (hi : i < 16) :
    (zipBlock f a b)[i] = f a[i] b[i] := by simp [zipBlock]

@[simp] theorem xorBlock_getElem (a b : Block) (i : Nat) (hi : i < 16) :
    (xorBlock a b)[i] = a[i] ^^^ b[i] := by simp [xorBlock]

@[simp] theorem sub_getElem (b : Block) (i : Nat) (hi : i < 16) : (sub T b)[i] = T.pi b[i] := by simp [sub]

@[simp] theorem iSub_getElem (b : Block) (i : Nat) (hi : i < 16) : (iSub T b)[i] = T.piInv b[i] := by
  simp [iSub]

/-- Below index 15, `RStep` moves every byte down by one index (R122). -/
theorem rStep_getElem_lt (s : Block) (i : Nat) (hi : i < 15) : (rStep T s)[i]'(by omega) = s[i + 1] := by
  simp [rStep, hi]

/-- At index 15, `RStep` puts the weighted sum (R122). -/
theorem rStep_getElem_last (s : Block) : (rStep T s)[15] = linSum T s := by
  simp [rStep]

/-- At index 0, `IRStep` puts the recovered byte (R124). -/
theorem irStep_getElem_zero (t : Block) : (irStep T t)[0] = recovered T t := by simp [irStep]

/-- Above index 0, `IRStep` moves every byte up by one index (R124). -/
theorem irStep_getElem_succ (t : Block) (i : Nat) (hi : i < 15) :
    (irStep T t)[i + 1]'(by omega) = t[i] := by simp [irStep, List.getElem_dropLast]

theorem xorBlock_comm (a b : Block) : xorBlock a b = xorBlock b a :=
  block_ext fun i hi => by simp [BitVec.xor_comm]

theorem xorBlock_assoc (a b c : Block) : xorBlock (xorBlock a b) c = xorBlock a (xorBlock b c) :=
  block_ext fun i hi => by simp [BitVec.xor_assoc]

/-- `^` on Blocks is its own inverse. -/
@[simp] theorem xorBlock_xorBlock_self (a b : Block) : xorBlock (xorBlock a b) b = a :=
  block_ext fun i hi => by simp

/-- A byte string of any length but 16 is no Block (R46). -/
theorem toBlock?_eq_none {bytes : List Byte} (h : bytes.length ≠ 16) : toBlock? bytes = none := by
  simp [toBlock?, h]

/-- The bytes of a Block, in frame order, are that Block (R42). -/
@[simp] theorem toBlock?_toList (b : Block) : toBlock? b.toList = some b := by
  cases b with | mk a h => simp [toBlock?, Vector.toList, h]

/-- A byte string is a Block exactly when it is the bytes of one. -/
theorem toBlock?_eq_some {bytes : List Byte} {b : Block} : toBlock? bytes = some b ↔ bytes = b.toList := by
  constructor
  · intro h
    unfold toBlock? at h
    split at h
    · cases h; rfl
    · cases h
  · rintro rfl; simp

/-- A byte string has 16 bytes exactly when it is a Block's. -/
theorem toBlock?_isSome {bytes : List Byte} : (toBlock? bytes).isSome ↔ bytes.length = 16 := by
  unfold toBlock?; split <;> simp_all

end Sys2Proof.Machine
end

