-- ==== Sys2Proof/Laws/Cipher.lean ====
section
/-! SUPPORT. One equation for each function of files 43 to 46, so that no proof unfolds them by
evaluation. -/

namespace Sys2Proof.Machine

variable (T : Tables)

theorem iterate_zero (f : Block → Block) (s : Block) : iterate f 0 s = s := rfl

theorem iterate_succ (f : Block → Block) (n : Nat) (s : Block) : iterate f (n + 1) s = iterate f n (f s) := rfl

/-- Steps in sequence are the library's iterate. -/
theorem iterate_eq (f : Block → Block) (n : Nat) (s : Block) : iterate f n s = f^[n] s := by
  induction n generalizing s with
  | zero => rfl
  | succ n ih => simp [iterate_succ, ih]

/-- The pair of one Feistel iteration: the new left half (R140). -/
@[simp] theorem feistel_fst (lr : Block × Block) (c : Block) :
    (feistel T lr c).1 = xorBlock (lDif T (sub T (xorBlock lr.1 c))) lr.2 := rfl

/-- The pair of one Feistel iteration: the previous left half, unchanged (R140). -/
@[simp] theorem feistel_snd (lr : Block × Block) (c : Block) : (feistel T lr c).2 = lr.1 := rfl

/-- The stored constant of register j (R137). -/
theorem roundConstants_getElem (j : Nat) (hj : j < 32) :
    (roundConstants T)[j] = roundConst T (BitVec.ofNat 8 (j + 1)) := by simp [roundConstants]

/-- A list of rounds run forwards and then backwards gives the block back, if each round has an inverse. -/
theorem foldr_foldl_cancel {ι : Type} (f g : ι → Block → Block) (h : ∀ r b, g r (f r b) = b) (rounds : List ι)
    (b : Block) : rounds.foldr g (rounds.foldl (fun b r => f r b) b) = b := by
  induction rounds generalizing b with
  | nil => rfl
  | cons r rs ih => rw [List.foldr_cons, List.foldl_cons, ih, h]

end Sys2Proof.Machine
end

