-- ==== Sys2Proof/Laws/Decode.lean ====
section
/-! SUPPORT. The opcode map and the operand decoders, one lemma each. -/

namespace Sys2Proof

/-- Each mnemonic is found by its own opcode (R68). -/
@[simp] theorem Op.ofCode?_code (o : Op) : Op.ofCode? o.code = some o := by cases o <;> rfl

/-- A mnemonic found by an opcode has that opcode. -/
theorem Op.code_of_ofCode? {b : Byte} {o : Op} (h : Op.ofCode? b = some o) : o.code = b := by
  simpa using List.find?_some h

/-- The empty frame is illegal (R70). -/
@[simp] theorem decode_nil : decode [] = .error .emptyFrame := rfl

/-- A frame that starts with a mnemonic's opcode is read by that mnemonic's operand decoder (R69). -/
@[simp] theorem decode_code (o : Op) (operands : List Byte) :
    decode (o.code :: operands) = decodeOperands o operands := by
  simp [decode]

/-- Decoding an encoded command starts with its own operand decoder. -/
theorem decode_encode_eq (i : Instr) : decode (encode i) = decodeOperands i.op (encodeOperands i) := by
  simp [encode]

/-- A length field carries the lengths up to 255 exactly (R61, R62). -/
theorem lengthByte_toNat {bytes : List Byte} (h : fitsLengthByte bytes = true) :
    (lengthByte bytes).toNat = bytes.length := by
  have : bytes.length ≤ 255 := by simpa [fitsLengthByte] using h
  simp only [lengthByte, BitVec.toNat_ofNat]
  omega

/-- The length that a frame's opcode and length bytes require, by the format of its mnemonic (R71). -/
theorem frameLength?_code (o : Op) (rest : List Byte) :
    frameLength? (o.code :: rest) = some (match o.format with
      | .K => 3 + (rest.getD 0 0).toNat + (rest.getD 1 0).toNat
      | .V => 2 + (rest.getD 0 0).toNat
      | .B => 17
      | .G => 3
      | .I => 2) := by
  cases o <;> rfl

end Sys2Proof
end

