-- ==== Sys2Proof/Laws/State.lean ====
section
/-! SUPPORT. What each update of State leaves in each field, so that no proof unfolds a record update. -/

namespace Sys2Proof.Machine.State

variable (s : State) (g : Frame) (rk : RoundKeys) (rc : RoundConstants) (rest : List HostEvent)

@[simp] theorem emit_st : (s.emit g).st = s.st := rfl
@[simp] theorem emit_pending : (s.emit g).pending = s.pending := rfl
@[simp] theorem emit_responses : (s.emit g).responses = s.responses ++ [g] := rfl

@[simp] theorem setKeyed_st : (s.setKeyed rk rc).st = .keyed rk rc := rfl
@[simp] theorem setKeyed_pending : (s.setKeyed rk rc).pending = s.pending := rfl
@[simp] theorem setKeyed_responses : (s.setKeyed rk rc).responses = s.responses := rfl

@[simp] theorem withPending_st : (s.withPending rest).st = s.st := rfl
@[simp] theorem withPending_pending : (s.withPending rest).pending = rest := rfl
@[simp] theorem withPending_responses : (s.withPending rest).responses = s.responses := rfl

@[simp] theorem resetEngine_st : s.resetEngine.st = .unkeyed := rfl
@[simp] theorem resetEngine_pending : s.resetEngine.pending = s.pending := rfl
@[simp] theorem resetEngine_responses : s.resetEngine.responses = s.responses := rfl

@[simp] theorem withFetchWord_st (nbits w : Nat) : (s.withFetchWord nbits w).st = s.st := rfl
@[simp] theorem withFetchWord_responses (nbits w : Nat) : (s.withFetchWord nbits w).responses = s.responses := rfl
@[simp] theorem withFetchWord_pending (nbits w : Nat) :
    (s.withFetchWord nbits w).pending = .command (frameOfWord nbits w) :: s.pending := rfl

/-- Two states are equal when their three fields are. -/
theorem eq_of_fields {s t : State} (hst : s.st = t.st) (hp : s.pending = t.pending)
    (hr : s.responses = t.responses) : s = t := by
  cases s; cases t; simp_all

end Sys2Proof.Machine.State
end

