-- ==== Sys2Proof/Laws/Ops.lean ====
section
/-! SUPPORT. Everything a shared operation can do, once for each. -/

namespace Sys2Proof.Machine

variable {s t : State} {data : List Byte} {status : Status}

/-- A refusal's next state: the same state with the status byte alone emitted (R177). -/
theorem raise_next : raise status s = .next t ↔ s.emit [status.code] = t := by simp [raise]

/-- An OK response's next state: the same state with status OK and the data emitted (R66). -/
theorem respond_next : respond data s = .next t ↔ s.emit (Status.ok.code :: data) = t := by simp [respond]

/-- The state check refuses in the Unkeyed state (R173). -/
theorem requireKeyed_unkeyed (h : s.st = .unkeyed) (go) : requireKeyed s go = raise .notKeyed s := by
  simp [requireKeyed, h]

/-- The state check passes in the Keyed state and hands the register files on. -/
theorem requireKeyed_keyed {rk : RoundKeys} {rc : RoundConstants} (h : s.st = .keyed rk rc) (go) :
    requireKeyed s go = go rk rc := by
  simp [requireKeyed, h]

/-- What a command behind the state check can do: refuse with `NotKeyed`, or go on Keyed. -/
theorem requireKeyed_cases {go} (h : requireKeyed s go = .next t) :
    (s.st = .unkeyed ∧ t = s.emit [Status.notKeyed.code]) ∨
      ∃ rk rc, s.st = .keyed rk rc ∧ go rk rc = .next t := by
  unfold requireKeyed at h
  split at h
  · exact .inl ⟨‹_›, (raise_next.mp h).symm⟩
  · exact .inr ⟨_, _, ‹_›, h⟩

/-- The length check refuses any length but 16 (R172). -/
theorem requireBlock_wrong (h : data.length ≠ 16) (go) : requireBlock data s go = raise .invalidBlockSize s := by
  simp [requireBlock, toBlock?_eq_none h]

/-- The length check hands a Block's bytes on as that Block. -/
@[simp] theorem requireBlock_toList (b : Block) (go) : requireBlock b.toList s go = go b := by
  simp [requireBlock]

/-- What a command behind the length check can do: refuse with `InvalidBlockSize`, or go on with a Block. -/
theorem requireBlock_cases {go} (h : requireBlock data s go = .next t) :
    (data.length ≠ 16 ∧ t = s.emit [Status.invalidBlockSize.code]) ∨
      ∃ b : Block, data = b.toList ∧ go b = .next t := by
  unfold requireBlock at h
  split at h
  · next hn =>
    refine .inl ⟨fun hl => ?_, (raise_next.mp h).symm⟩
    simpa [hn] using toBlock?_isSome.mpr hl
  · next b hb => exact .inr ⟨b, toBlock?_eq_some.mp hb, h⟩

/-- With no event pending, the state stays. -/
@[simp] theorem idle_eq (s : State) : idle s = .next s := rfl

end Sys2Proof.Machine
end

