-- ==== Sys2Proof/Laws/PerInstr.lean ====
section
/-! SUPPORT. Statements about every command, one lemma per constructor. -/

namespace Sys2Proof.Laws.FrameLength

/-- The length of a command's frame is the length its opcode and length bytes require (R61 to R65, R71). -/
def Statement (i : Instr) : Prop := i.wellFormed = true → frameLength? (encode i) = some (encode i).length

theorem keyinit (k1 k2 : List Byte) : Statement (.keyinit k1 k2) := by
  intro h
  obtain ⟨h1, h2⟩ : fitsLengthByte k1 = true ∧ fitsLengthByte k2 = true := by simpa [Instr.wellFormed] using h
  simp [encode, Instr.op, encodeOperands, frameLength?_code, Op.format, lengthByte_toNat h1, lengthByte_toNat h2]
  omega

theorem enc (data : List Byte) : Statement (.enc data) := by
  intro h
  have h' : fitsLengthByte data = true := by simpa [Instr.wellFormed] using h
  simp [encode, Instr.op, encodeOperands, frameLength?_code, Op.format, lengthByte_toNat h']
  omega

theorem dec (data : List Byte) : Statement (.dec data) := by
  intro h
  have h' : fitsLengthByte data = true := by simpa [Instr.wellFormed] using h
  simp [encode, Instr.op, encodeOperands, frameLength?_code, Op.format, lengthByte_toNat h']
  omega

theorem sub (blk : Block) : Statement (.sub blk) := fun _ => by
  simp [encode, Instr.op, encodeOperands, frameLength?_code, Op.format]

theorem isub (blk : Block) : Statement (.isub blk) := fun _ => by
  simp [encode, Instr.op, encodeOperands, frameLength?_code, Op.format]

theorem gfmul (a b : Byte) : Statement (.gfmul a b) := fun _ => by
  simp [encode, Instr.op, encodeOperands, frameLength?_code, Op.format]

theorem rstep (blk : Block) : Statement (.rstep blk) := fun _ => by
  simp [encode, Instr.op, encodeOperands, frameLength?_code, Op.format]

theorem ldif (blk : Block) : Statement (.ldif blk) := fun _ => by
  simp [encode, Instr.op, encodeOperands, frameLength?_code, Op.format]

theorem irstep (blk : Block) : Statement (.irstep blk) := fun _ => by
  simp [encode, Instr.op, encodeOperands, frameLength?_code, Op.format]

theorem ildif (blk : Block) : Statement (.ildif blk) := fun _ => by
  simp [encode, Instr.op, encodeOperands, frameLength?_code, Op.format]

theorem rdrk (idx : Fin 10) : Statement (.rdrk idx) := fun _ => by
  simp [encode, Instr.op, encodeOperands, frameLength?_code, Op.format]

theorem rdrc (idx : Fin 32) : Statement (.rdrc idx) := fun _ => by
  simp [encode, Instr.op, encodeOperands, frameLength?_code, Op.format]

end Sys2Proof.Laws.FrameLength
end

