-- ==== Sys2Proof/Laws/Step.lean ====
section
/-! SUPPORT. What carrying out an event and taking a step are, case by case, so that no proof unfolds them. -/

namespace Sys2Proof.Machine

variable {s t : State} {f : Frame}

/-- A frame that decodes runs its command. -/
theorem stepFrame_ok {i : Instr} (h : decode f = .ok i) (s : State) : stepFrame f s = exec i s := by
  simp [stepFrame, h]

/-- A frame that does not decode is answered with `IllegalCommand` (R175). -/
theorem stepFrame_error {e : Illegal} (h : decode f = .error e) (s : State) :
    stepFrame f s = raise .illegalCommand s := by
  simp [stepFrame, h]

/-- Everything a step can be: idle, a command frame carried out, or reset. -/
theorem step_cases (h : step s = .next t) :
    (s.pending = [] ∧ t = s) ∨
      (∃ f rest, s.pending = .command f :: rest ∧ stepFrame f (s.withPending rest) = .next t) ∨
      ∃ rest, s.pending = .reset :: rest ∧ t = (s.withPending rest).resetEngine := by
  unfold step at h
  split at h
  · next hp => exact .inl ⟨hp, by simpa using h.symm⟩
  · next e rest hp =>
    cases e with
    | command f => exact .inr (.inl ⟨f, rest, hp, h⟩)
    | reset => exact .inr (.inr ⟨rest, hp, by simpa [takeEvent] using h.symm⟩)

/-- What `KEYINIT` can do: refuse in the Keyed state, refuse a wrong length, or key the engine. -/
theorem execKeyinit_cases {k1 k2 : List Byte} (h : execKeyinit k1 k2 s = .next t) :
    (s.st.flag = true ∧ t = s.emit [Status.alreadyKeyed.code]) ∨
      (s.st = .unkeyed ∧ (k1.length ≠ 16 ∨ k2.length ≠ 16) ∧ t = s.emit [Status.invalidKeyLength.code]) ∨
      ∃ b1 b2 : Block, s.st = .unkeyed ∧ k1 = b1.toList ∧ k2 = b2.toList ∧
        t = (s.setKeyed (deriveRoundKeys tables (roundConstants tables) b1 b2) (roundConstants tables)).emit
          [Status.ok.code] := by
  unfold execKeyinit at h
  split at h
  · next hk => exact .inl ⟨by simp [hk, KeyState.flag], (raise_next.mp h).symm⟩
  · next b1 b2 hu h1 h2 =>
    exact .inr (.inr ⟨b1, b2, hu, toBlock?_eq_some.mp h1, toBlock?_eq_some.mp h2, (respond_next.mp h).symm⟩)
  · next hu hn =>
    refine .inr (.inl ⟨hu, ?_, (raise_next.mp h).symm⟩)
    by_contra hl
    push Not at hl
    obtain ⟨b1, h1⟩ := Option.isSome_iff_exists.mp (toBlock?_isSome.mpr hl.1)
    obtain ⟨b2, h2⟩ := Option.isSome_iff_exists.mp (toBlock?_isSome.mpr hl.2)
    exact hn b1 b2 h1 h2

end Sys2Proof.Machine
end

