-- ==== Sys2Proof/Tests/Slice0.lean ====
section
/-! SUPPORT. Small tests of one step each, with the expected values of 95_test_vectors.md, and for every
statement with hypotheses a named state and operands that meet them. -/

namespace Sys2Proof.Tests

open Sys2Proof.Machine

/-! ## Helpers -/

/-- A machine in the given engine state with one command frame pending. -/
def given (st : KeyState) (f : Frame) : State where
  st := st
  pending := [.command f]
  responses := []

/-- The response frames after an outcome, none for a stop. -/
def answers : Host.Outcome State Fault Refusal → Option (List Frame)
  | .next s => some s.responses
  | .fault _ => none
  | .refused _ => none

/-- The engine's flag after an outcome, none for a stop. -/
def flagAfter : Host.Outcome State Fault Refusal → Option Bool
  | .next s => some s.st.flag
  | .fault _ => none
  | .refused _ => none

/-- The round keys of the reference key, 95_test_vectors.md section 6.2. -/
def refKeys : RoundKeys :=
  #v[gost 0x8899aabbccddeeff0011223344556677,
    gost 0xfedcba98765432100123456789abcdef,
    gost 0xdb31485315694343228d6aef8cc78c44,
    gost 0x3d4553d8e9cfec6815ebadc40a9ffd04,
    gost 0x57646468c44a5e28d3e59246f429f1ac,
    gost 0xbd079435165c6432b532e82834da581b,
    gost 0x51e640757e8745de705727265a0098b1,
    gost 0x5a7925017b9fdd3ed72a91a22286f984,
    gost 0xbb44e25378c73123a5f32f73cdb6e517,
    gost 0x72e9dd7416bcf45b755dbaa88e4a4043]

/-- Constants that no generator made, to see which register a read returns. -/
def marks : RoundConstants := ⟨((List.range 32).map fun j => seed (BitVec.ofNat 8 (0x80 + j))).toArray, by simp⟩

/-- A Keyed engine with the reference round keys. -/
def keyed : KeyState := .keyed refKeys marks

/-- A Keyed engine as a `KEYINIT` of two zero halves leaves it. -/
def derivedZero : KeyState :=
  .keyed (deriveRoundKeys tables (roundConstants tables) (Vector.replicate 16 0) (Vector.replicate 16 0))
    (roundConstants tables)

/-! ## WellFormed: one ill-formed term for each check -/

theorem test_wellFormed_refuses_long_k1 : (Instr.keyinit (List.replicate 256 0) []).wellFormed = false := by
  decide +kernel
theorem test_wellFormed_refuses_long_k2 : (Instr.keyinit [] (List.replicate 256 0)).wellFormed = false := by
  decide +kernel
theorem test_wellFormed_refuses_long_enc : (Instr.enc (List.replicate 256 0)).wellFormed = false := by
  decide +kernel
theorem test_wellFormed_refuses_long_dec : (Instr.dec (List.replicate 256 0)).wellFormed = false := by
  decide +kernel
theorem test_wellFormed_admits_255 : (Instr.enc (List.replicate 255 0)).wellFormed = true := by
  decide +kernel

/-! ## Decoding: one frame written out from 30_encoding.md for every constructor -/

/-- Section 8.1 row 1. -/
theorem test_decode_keyinit :
    decode [0x01, 0x10, 0x10, 0x77, 0x66, 0x55, 0x44, 0x33, 0x22, 0x11, 0x00, 0xff, 0xee, 0xdd, 0xcc, 0xbb, 0xaa, 0x99, 0x88,
      0xef, 0xcd, 0xab, 0x89, 0x67, 0x45, 0x23, 0x01, 0x10, 0x32, 0x54, 0x76, 0x98, 0xba, 0xdc, 0xfe] =
    .ok (.keyinit [0x77, 0x66, 0x55, 0x44, 0x33, 0x22, 0x11, 0x00, 0xff, 0xee, 0xdd, 0xcc, 0xbb, 0xaa, 0x99, 0x88]
      [0xef, 0xcd, 0xab, 0x89, 0x67, 0x45, 0x23, 0x01, 0x10, 0x32, 0x54, 0x76, 0x98, 0xba, 0xdc, 0xfe]) := by decide

theorem test_decode_keyinit_unequal_halves :
    decode [0x01, 0x02, 0x01, 0xAA, 0xBB, 0xCC] = .ok (.keyinit [0xAA, 0xBB] [0xCC]) := by decide

theorem test_decode_enc : decode [0x02, 0x03, 0x01, 0x02, 0x03] = .ok (.enc [0x01, 0x02, 0x03]) := by decide
theorem test_decode_dec : decode [0x03, 0x02, 0x0A, 0x0B] = .ok (.dec [0x0A, 0x0B]) := by decide

theorem test_decode_sub :
    decode [0x10, 0x00, 0x77, 0x66, 0x55, 0x44, 0x33, 0x22, 0x11, 0x88, 0x99, 0xaa, 0xbb, 0xcc, 0xdd, 0xee, 0xff] =
    .ok (.sub #v[0x00, 0x77, 0x66, 0x55, 0x44, 0x33, 0x22, 0x11, 0x88, 0x99, 0xaa, 0xbb, 0xcc, 0xdd, 0xee, 0xff]) := by decide

theorem test_decode_isub :
    decode [0x11, 0x00, 0x77, 0x66, 0x55, 0x44, 0x33, 0x22, 0x11, 0x88, 0x99, 0xaa, 0xbb, 0xcc, 0xdd, 0xee, 0xff] =
    .ok (.isub #v[0x00, 0x77, 0x66, 0x55, 0x44, 0x33, 0x22, 0x11, 0x88, 0x99, 0xaa, 0xbb, 0xcc, 0xdd, 0xee, 0xff]) := by decide

theorem test_decode_gfmul : decode [0x12, 0x02, 0x80] = .ok (.gfmul 0x02 0x80) := by decide

theorem test_decode_rstep :
    decode [0x13, 0x01, 0x00, 0x00, 0x00, 0x00, 0x00, 0x00, 0x00, 0x00, 0x00, 0x00, 0x00, 0x00, 0x00, 0x00, 0x94] =
    .ok (.rstep #v[0x01, 0x00, 0x00, 0x00, 0x00, 0x00, 0x00, 0x00, 0x00, 0x00, 0x00, 0x00, 0x00, 0x00, 0x00, 0x94]) := by decide

theorem test_decode_ldif :
    decode [0x14, 0x01, 0x00, 0x00, 0x00, 0x00, 0x00, 0x00, 0x00, 0x00, 0x00, 0x00, 0x00, 0x00, 0x00, 0x00, 0x94] =
    .ok (.ldif #v[0x01, 0x00, 0x00, 0x00, 0x00, 0x00, 0x00, 0x00, 0x00, 0x00, 0x00, 0x00, 0x00, 0x00, 0x00, 0x94]) := by decide

theorem test_decode_irstep :
    decode [0x15, 0x01, 0x00, 0x00, 0x00, 0x00, 0x00, 0x00, 0x00, 0x00, 0x00, 0x00, 0x00, 0x00, 0x00, 0x00, 0x94] =
    .ok (.irstep #v[0x01, 0x00, 0x00, 0x00, 0x00, 0x00, 0x00, 0x00, 0x00, 0x00, 0x00, 0x00, 0x00, 0x00, 0x00, 0x94]) := by decide

theorem test_decode_ildif :
    decode [0x16, 0x01, 0x00, 0x00, 0x00, 0x00, 0x00, 0x00, 0x00, 0x00, 0x00, 0x00, 0x00, 0x00, 0x00, 0x00, 0x94] =
    .ok (.ildif #v[0x01, 0x00, 0x00, 0x00, 0x00, 0x00, 0x00, 0x00, 0x00, 0x00, 0x00, 0x00, 0x00, 0x00, 0x00, 0x94]) := by decide

theorem test_decode_rdrk_last : decode [0x20, 0x09] = .ok (.rdrk 9) := by decide
theorem test_decode_rdrc_last : decode [0x21, 0x1F] = .ok (.rdrc 31) := by decide

/-- Section 8.2: reserved encodings, each by its reason. -/
theorem test_decode_reserved :
    decode [] = .error .emptyFrame ∧ decode [0x00] = .error .unknownOpcode ∧
    decode [0x22, 0x00] = .error .unknownOpcode ∧ decode [0x01] = .error .wrongFrameLength ∧
    decode [0x02] = .error .wrongFrameLength ∧ decode (0x14 :: List.replicate 17 0) = .error .wrongFrameLength ∧
    decode [0x12, 0x02] = .error .wrongFrameLength ∧ decode [0x20, 0x00, 0x00] = .error .wrongFrameLength ∧
    decode [0x20, 0x0A] = .error .indexOutOfRange ∧ decode [0x21, 0x20] = .error .indexOutOfRange := by decide

/-- An opcode word alone stands for the frame of zeros that its format requires. -/
theorem test_frameOfWord : frameOfWord 8 0x12 = [0x12, 0, 0] ∧ frameOfWord 16 0x0102 = [0x02, 0x01, 0x00] ∧
    frameOfWord 32 0x12 = [0x12, 0, 0, 0] := by decide

/-! ## Units -/

/-- Section 2.3. -/
theorem test_step_sub :
    answers (step (given .unkeyed [0x10, 0x00, 0x77, 0x66, 0x55, 0x44, 0x33, 0x22, 0x11, 0x88, 0x99, 0xaa, 0xbb, 0xcc, 0xdd, 0xee, 0xff])) =
    some [[0x00, 0xfc, 0x7e, 0x9a, 0x0c, 0xea, 0xae, 0x65, 0x77, 0xd7, 0xe8, 0x38, 0x7d, 0x88, 0xd8, 0x6c, 0xb6]] := by
  decide +kernel

/-- Section 2.3. -/
theorem test_step_isub :
    answers (step (given keyed [0x11, 0xfc, 0x7e, 0x9a, 0x0c, 0xea, 0xae, 0x65, 0x77, 0xd7, 0xe8, 0x38, 0x7d, 0x88, 0xd8, 0x6c, 0xb6])) =
    some [[0x00, 0x00, 0x77, 0x66, 0x55, 0x44, 0x33, 0x22, 0x11, 0x88, 0x99, 0xaa, 0xbb, 0xcc, 0xdd, 0xee, 0xff]] := by
  decide +kernel

/-- Section 2.1: position-weighted checksums of both tables, which two swapped entries would change. -/
theorem test_table_checksums :
    ((List.range 256).map fun v => (v + 1) * (tables.pi (BitVec.ofNat 8 v)).toNat).sum % 65521 = 1438 ∧
    ((List.range 256).map fun v => (v + 1) * (tables.piInv (BitVec.ofNat 8 v)).toNat).sum % 65521 = 1438 := by
  decide +kernel

/-- Section 3.3. -/
theorem test_step_gfmul : answers (step (given .unkeyed [0x12, 0x94, 0x85])) = some [[0x00, 0x64]] := by decide +kernel

/-- Section 3.2, table of inverses. -/
theorem test_gfInv : gfInv 0x94 = 0x1B ∧ gfInv 0x02 = 0xE1 := by decide +kernel

/-- Section 4.5. -/
theorem test_step_rstep :
    answers (step (given .unkeyed [0x13, 0x00, 0x01, 0x00, 0x00, 0x00, 0x00, 0x00, 0x00, 0x00, 0x00, 0x00, 0x00, 0x00, 0x00, 0x00, 0x00])) =
    some [[0x00, 0x01, 0x00, 0x00, 0x00, 0x00, 0x00, 0x00, 0x00, 0x00, 0x00, 0x00, 0x00, 0x00, 0x00, 0x00, 0x94]] := by
  decide +kernel

/-- Section 4.5. -/
theorem test_step_irstep :
    answers (step (given keyed [0x15, 0x01, 0x00, 0x00, 0x00, 0x00, 0x00, 0x00, 0x00, 0x00, 0x00, 0x00, 0x00, 0x00, 0x00, 0x00, 0x94])) =
    some [[0x00, 0x00, 0x01, 0x00, 0x00, 0x00, 0x00, 0x00, 0x00, 0x00, 0x00, 0x00, 0x00, 0x00, 0x00, 0x00, 0x00]] := by
  decide +kernel

/-- Section 4.5. -/
theorem test_step_ldif :
    answers (step (given .unkeyed [0x14, 0x00, 0x00, 0x00, 0x00, 0x00, 0x00, 0x00, 0x00, 0x00, 0x00, 0x00, 0x00, 0x00, 0x94, 0xa5, 0x64])) =
    some [[0x00, 0x0d, 0x89, 0xa2, 0x7f, 0x4b, 0x6e, 0x16, 0xc3, 0x4c, 0xe8, 0xe3, 0xd0, 0x4d, 0x58, 0x56, 0xd4]] := by
  decide +kernel

/-- Section 4.5. -/
theorem test_step_ildif :
    answers (step (given .unkeyed [0x16, 0x0d, 0x89, 0xa2, 0x7f, 0x4b, 0x6e, 0x16, 0xc3, 0x4c, 0xe8, 0xe3, 0xd0, 0x4d, 0x58, 0x56, 0xd4])) =
    some [[0x00, 0x00, 0x00, 0x00, 0x00, 0x00, 0x00, 0x00, 0x00, 0x00, 0x00, 0x00, 0x00, 0x00, 0x94, 0xa5, 0x64]] := by
  decide +kernel

/-! ## Constants, key schedule, cipher -/

/-- Section 5. -/
theorem test_last_constant : (roundConstants tables)[31] = gost 0x5ea7d8581e149b61f16ac1459ceda820 := by
  decide +kernel

/-- Section 6.1, the first iteration. -/
theorem test_first_feistel_iteration :
    feistel tables (refKeys[0], refKeys[1]) (gost 0x6ea276726c487ab85d27bd10dd849401) =
    (gost 0xc3d5fa01ebe36f7a9374427ad7ca8949, gost 0x8899aabbccddeeff0011223344556677) := by
  decide +kernel

/-- Section 6.1: the last group of eight iterations and its capture. -/
theorem test_last_feistel_group :
    feistelGroup tables (roundConstants tables) 3 (refKeys[6], refKeys[7]) = (refKeys[8], refKeys[9]) := by
  decide +kernel

/-- Section 8.1 row 2, with the round keys of section 6.2 in `RK`. -/
theorem test_step_enc :
    answers (step (given keyed [0x02, 0x10, 0x88, 0x99, 0xaa, 0xbb, 0xcc, 0xdd, 0xee, 0xff, 0x00, 0x77, 0x66, 0x55, 0x44, 0x33, 0x22, 0x11])) =
    some [[0x00, 0xcd, 0xed, 0xd4, 0xb9, 0x42, 0x8d, 0x46, 0x5a, 0x30, 0x24, 0xbc, 0xbe, 0x90, 0x9d, 0x67, 0x7f]] := by
  decide +kernel

/-- Section 8.1 row 3. -/
theorem test_step_dec :
    answers (step (given keyed [0x03, 0x10, 0xcd, 0xed, 0xd4, 0xb9, 0x42, 0x8d, 0x46, 0x5a, 0x30, 0x24, 0xbc, 0xbe, 0x90, 0x9d, 0x67, 0x7f])) =
    some [[0x00, 0x88, 0x99, 0xaa, 0xbb, 0xcc, 0xdd, 0xee, 0xff, 0x00, 0x77, 0x66, 0x55, 0x44, 0x33, 0x22, 0x11]] := by
  decide +kernel

/-- Section 8.2: `RDRK 9`. -/
theorem test_step_rdrk :
    answers (step (given keyed [0x20, 0x09])) =
    some [[0x00, 0x43, 0x40, 0x4a, 0x8e, 0xa8, 0xba, 0x5d, 0x75, 0x5b, 0xf4, 0xbc, 0x16, 0x74, 0xdd, 0xe9, 0x72]] := by
  decide +kernel

/-- R138: the register read is the one named, index 31 the last. -/
theorem test_step_rdrc :
    answers (step (given keyed [0x21, 0x1F])) = some [0x00 :: 0x9F :: List.replicate 15 0] := by decide +kernel

/-- Section 8.2: the only accepted `KEYINIT` keys the engine. -/
theorem test_keyinit_keys :
    answers (exec (.keyinit (List.replicate 16 0) (List.replicate 16 0)) State.reset) = some [[0x00]] ∧
    flagAfter (exec (.keyinit (List.replicate 16 0) (List.replicate 16 0)) State.reset) = some true := by decide

/-- Sections 8.2 and 8.3: refusals, first failed check first. -/
theorem test_refusals :
    answers (step (given .unkeyed [0x01, 0x00, 0x00])) = some [[0x01]] ∧
    answers (step (given keyed [0x01, 0x00, 0x00])) = some [[0x04]] ∧
    answers (step (given .unkeyed [0x02, 0x05, 0, 0, 0, 0, 0])) = some [[0x03]] ∧
    answers (step (given keyed [0x02, 0x00])) = some [[0x02]] ∧
    answers (step (given keyed [0x03, 0x01, 0x00])) = some [[0x02]] ∧
    answers (step (given .unkeyed [0x20, 0x00])) = some [[0x03]] ∧
    answers (step (given .unkeyed [0x21, 0x00])) = some [[0x03]] ∧
    answers (step (given .unkeyed [0x20, 0x0A])) = some [[0x05]] ∧
    answers (step (given keyed [])) = some [[0x05]] := by decide

/-- Section 9, program P4: the reset event voids the key and gives no response. -/
theorem test_reset_event :
    step { st := keyed, pending := [.reset], responses := [[0x00]] } =
    .next { st := .unkeyed, pending := [], responses := [[0x00]] } := rfl

/-! ## Witnesses: hypotheses met together -/

/-- Invertible tables other than the standard ones: the identity and a vector whose only coefficient is
`LVEC[0] = 1`. Their `LDif` gives every Block back, so they lack full diffusion and are not `Valid`. -/
def plainTables : Tables where
  pi := id
  piInv := id
  lvec := seed 1

theorem witness_Tables_Invertible : plainTables.Invertible := ⟨fun _ => rfl, fun _ => rfl, by decide⟩

theorem witness_DecodeReadsEncodedCommand :
    (Instr.keyinit (List.replicate 255 1) []).wellFormed = true ∧ (Instr.rdrc 31).wellFormed = true := by decide +kernel

theorem witness_DecodedFrameIsTheCommandsFrame : decode [0x03, 0x00] = .ok (.dec []) := by decide

/-- Each clause of the reserved encodings at the ends of its ranges. -/
theorem witness_ReservedFramesAreRefused :
    reservedFrame [] ∧ reservedFrame [0x12] ∧ reservedFrame [0x12, 0, 0, 0] ∧
    reservedFrame [0x20, 10] ∧ reservedFrame [0x20, 255] ∧ reservedFrame [0x21, 32] ∧ reservedFrame [0x21, 255] :=
  ⟨.inl rfl, .inr (.inr (.inl ⟨3, by decide⟩)), .inr (.inr (.inl ⟨3, by decide⟩)),
    .inr (.inr (.inr (.inl ⟨10, by decide⟩))), .inr (.inr (.inr (.inl ⟨255, by decide⟩))),
    .inr (.inr (.inr (.inr ⟨32, by decide⟩))), .inr (.inr (.inr (.inr ⟨255, by decide⟩)))⟩

theorem witness_reservedOpcode :
    reservedOpcode 0x00 ∧ reservedOpcode 0x04 ∧ reservedOpcode 0x0F ∧ reservedOpcode 0x17 ∧ reservedOpcode 0x1F ∧
    reservedOpcode 0x22 ∧ reservedOpcode 0xFF ∧ ¬ reservedOpcode 0x01 ∧ ¬ reservedOpcode 0x03 ∧
    ¬ reservedOpcode 0x10 ∧ ¬ reservedOpcode 0x16 ∧ ¬ reservedOpcode 0x20 ∧ ¬ reservedOpcode 0x21 := by
  refine ⟨?_, ?_, ?_, ?_, ?_, ?_, ?_, ?_, ?_, ?_, ?_, ?_, ?_⟩ <;> simp [reservedOpcode]

theorem witness_FetchedTableWordRuns : decodeTableWord 8 0x12 = some (.gfmul 0 0) := by decide

theorem witness_StepRunsTheDecodedCommand :
    (given .unkeyed [0x03, 0x00]).pending = [.command [0x03, 0x00]] ∧ decode [0x03, 0x00] = .ok (.dec []) ∧
    (given .unkeyed [0x04]).pending = [.command [0x04]] ∧ decode [0x04] = .error .unknownOpcode := by decide

theorem witness_IdleEngineStartsNothing : State.reset.pending = [] := rfl

/-- Every check fails somewhere, and every state check passes somewhere. -/
theorem witness_ChecksEndTheCommandInOrder :
    failedCheck? (decode [0x04]) .unkeyed = some .illegalCommand ∧
    failedCheck? (decode [0x01, 0x00, 0x00]) keyed = some .alreadyKeyed ∧
    failedCheck? (decode [0x01, 0x00, 0x00]) .unkeyed = some .invalidKeyLength ∧
    failedCheck? (decode [0x02, 0x00]) .unkeyed = some .notKeyed ∧
    failedCheck? (decode [0x03, 0x00]) keyed = some .invalidBlockSize ∧
    failedCheck? (decode [0x20, 0x00]) keyed = none ∧ failedCheck? (decode [0x12, 0x00, 0x00]) .unkeyed = none := by
  decide

theorem witness_EveryCommandGetsOneResponse :
    (given .unkeyed [0x12, 0, 0]).pending = [.command [0x12, 0, 0]] := rfl

/-- A reset event pending; and a Keyed engine that a reset step leaves Unkeyed. -/
theorem witness_OnlyResetLeavesTheKeyedState :
    ∃ s t : State, s.pending = [.reset] ∧ step s = .next t ∧ s.st.flag = true ∧ t.st = .unkeyed :=
  ⟨{ st := keyed, pending := [.reset], responses := [] }, _, rfl, rfl, rfl, rfl⟩

/-- A command that changes the engine; a refusal; and a Keyed engine taking a step. -/
theorem witness_OnlySuccessfulKeyinitChangesTheEngine :
    (∃ i t, exec i State.reset = .next t ∧ t.st ≠ State.reset.st) ∧
    (∃ s t, stepFrame [0x04] s = .next t ∧ t.responses = s.responses ++ [[0x05]]) ∧
    (∃ s t, step s = .next t ∧ s.st.flag = true) :=
  ⟨⟨.keyinit (List.replicate 16 0) (List.replicate 16 0), _, rfl, by intro h; cases h⟩,
    ⟨State.reset, _, rfl, rfl⟩, ⟨given keyed [0x02, 0x00], _, rfl, rfl⟩⟩

theorem witness_CommandFrame : ∃ t, exec (.gfmul 0 0) State.reset = .next t := ⟨_, rfl⟩

/-- The invariant holds in a Keyed state too, not only after reset, and a step runs there. -/
theorem witness_EveryStepKeepsTheInvariant :
    (given derivedZero [0x02, 0x00]).Inv ∧ ∃ t, step (given derivedZero [0x02, 0x00]) = .next t :=
  ⟨⟨⟨rfl, _, _, rfl⟩, by simp [given]⟩, _, rfl⟩

theorem witness_RefusalHasNoEffect :
    ∃ t, stepFrame [0x02, 0x00] State.reset = .next t ∧ t.responses = State.reset.responses ++ [[0x03]] :=
  ⟨_, rfl, rfl⟩

theorem witness_RefusedFrameIsRefusedAgain :
    (0x03 : Byte) ≠ 0x00 ∧ stepFrame [0x02, 0x00] State.reset = .next (State.reset.answered [0x03]) :=
  ⟨by decide, rfl⟩

/-- In the Unkeyed state a unit command and a refused `ENC`; a `KEYINIT` of good lengths is excluded there. -/
theorem witness_OtherCommandsCommute :
    ¬ successfulKeyinit [0x12, 0x02, 0x03] State.reset ∧ ¬ successfulKeyinit [0x02, 0x00] State.reset :=
  ⟨(fun ⟨_, _, _, h⟩ => nomatch h), (fun ⟨_, _, _, h⟩ => nomatch h)⟩

theorem witness_ResponsesAreNeverRead : ∃ t, step (given .unkeyed [0x02, 0x00]) = .next t := ⟨_, rfl⟩

theorem witness_SubstitutionLanesAreIndependent : (seed 5)[(0 : Fin 16)] = (seed 5)[(0 : Fin 16)] := rfl

/-- The lengths next to the right one on either side, and none at all. -/
theorem witness_wrong_operand_length : ([] : List Byte).length ≠ 16 ∧ (List.replicate 15 (0 : Byte)).length ≠ 16 ∧
    (List.replicate 17 (0 : Byte)).length ≠ 16 ∧ ([0] : List Byte).length ≠ 2 ∧
    ([0, 0, 0] : List Byte).length ≠ 2 := by decide

theorem witness_GfMulIsThePolynomialProduct : ∃ P : Byte → Polynomial (ZMod 2),
    ∀ v, P v = ∑ i : Fin 8, if v.getLsbD i then Polynomial.X ^ i.val else 0 := ⟨_, fun _ => rfl⟩

theorem witness_GfMulLaws_no_zero_divisors : gfMul 0x00 0x05 = 0x00 := by decide
theorem witness_GfInvIsTheUniqueInverse : (0x02 : Byte) ≠ 0x00 ∧ gfMul 0x02 0xE1 = 0x01 := by decide +kernel

/-- A vector with `LVEC[0]` not zero, and one with it zero. -/
theorem witness_IRStepRecoversTheByteThatLeft :
    plainTables.lvec[0] ≠ 0x00 ∧ ({ pi := id, piInv := id, lvec := seed 0 } : Tables).lvec[0] = 0x00 := by decide

theorem witness_DiffusionIsLinear : rStep tables = rStep tables ∨ rStep tables = irStep tables ∨
    rStep tables = lDif tables ∨ rStep tables = ilDif tables := .inl rfl

theorem witness_RdrcReadsTheStoredConstant :
    State.reset.st = .unkeyed ∧ derivedZero.Derived ∧ derivedZero.flag = true ∧ (32 : Byte).toNat = 32 ∧
    ([] : List Byte).length ≠ 1 := ⟨rfl, ⟨rfl, _, _, rfl⟩, rfl, by decide, by decide⟩

theorem witness_FeistelIterationIsInvertible (c : Block) :
    ∃ newL newR, feistel tables (seed 1, seed 2) c = (newL, newR) := ⟨_, _, rfl⟩

/-- The first and the last group that the loop's pairs are captured for. -/
theorem witness_RoundKeysAreThePairsOfOneLoop : 0 < 5 ∧ 4 < 5 := by decide

theorem witness_KeyinitConstructsTheInstance :
    State.reset.st = .unkeyed ∧ keyed.flag = true ∧ (List.replicate 15 (0 : Byte)).length ≠ 16 ∧
    (List.replicate 17 (0 : Byte)).length ≠ 16 := by decide

theorem witness_RdrkReadsTheStoredKey :
    State.reset.st = .unkeyed ∧ keyed = .keyed refKeys marks ∧ (10 : Byte).toNat = 10 ∧
    ∃ t, exec (.keyinit (seed 1).toList (seed 2).toList) State.reset = .next t := ⟨rfl, rfl, by decide, _, rfl⟩

theorem witness_EncryptIsNineRoundsThenAKey : ∃ round : Fin 9 → Block → Block,
    ∀ r x, round r x = lDif tables (sub tables (xorBlock x refKeys[r.val])) := ⟨_, fun _ _ => rfl⟩

theorem witness_DecryptIsAKeyThenNineRounds : ∃ round : Fin 9 → Block → Block,
    ∀ r x, round r x = xorBlock refKeys[r.val] (iSub tables (ilDif tables x)) := ⟨_, fun _ _ => rfl⟩

/-- A byte that differs from the one a Block holds, so the premise of full diffusion is met. -/
theorem witness_LDifHasFullDiffusion : (0x01 : Byte) ≠ (seed 0)[0] := by decide

theorem witness_DecAfterEncAnswersThePlaintext : (given keyed []).st.flag = true := rfl

theorem witness_EncAndDecAnswerOneBlock :
    State.reset.st = .unkeyed ∧ keyed.flag = true ∧ ([] : List Byte).length ≠ 16 ∧
    (List.replicate 15 (0 : Byte)).length ≠ 16 ∧ (List.replicate 17 (0 : Byte)).length ≠ 16 ∧
    (List.replicate 32 (0 : Byte)).length ≠ 16 := by decide

end Sys2Proof.Tests
end

section
/-! PROOF. The algebra of `GfMul` (R112, R114), from the loop of R111. The one idea: the loop commutes with
every map of bytes that respects `^` and multiplication by x. -/

namespace Sys2Proof.Machine

/-- Multiplication by x respects `^` (R111). -/
theorem gfShift_xor (a b : Byte) : gfShift (a ^^^ b) = gfShift a ^^^ gfShift b := by
  unfold gfShift
  rw [BitVec.getLsbD_xor, BitVec.shiftLeft_xor_distrib]
  cases a.getLsbD 7 <;> cases b.getLsbD 7
  · rfl
  · exact BitVec.xor_assoc ..
  · simp only [Bool.true_xor, Bool.not_false, cond_true, cond_false]; ac_rfl
  · simp [BitVec.xor_comm (b <<< 1), BitVec.xor_assoc]

/-- The loop of R111 respects `^` in its accumulator and multiplicand together. -/
theorem gfLoop_xor (n : Nat) (acc acc' x x' y : Byte) :
    gfLoop n (acc ^^^ acc') (x ^^^ x') y = gfLoop n acc x y ^^^ gfLoop n acc' x' y := by
  induction n generalizing acc acc' x x' y with
  | zero => rfl
  | succ n ih =>
    rw [gfLoop, gfLoop, gfLoop, gfShift_xor, ← ih]
    cases y.getLsbD 0
    · rfl
    · simp only [cond_true]; ac_rfl

/-- The loop of R111 commutes with every map that respects `^` and multiplication by x. -/
theorem gfLoop_map {F : Byte → Byte} (hxor : ∀ a b, F (a ^^^ b) = F a ^^^ F b)
    (hshift : ∀ a, F (gfShift a) = gfShift (F a)) (n : Nat) (acc x y : Byte) :
    gfLoop n (F acc) (F x) y = F (gfLoop n acc x y) := by
  induction n generalizing acc x y with
  | zero => rfl
  | succ n ih =>
    rw [gfLoop, gfLoop, ← ih, hshift]
    cases y.getLsbD 0
    · rfl
    · simp only [cond_true, hxor]

/-- A map of bytes that respects `^` fixes zero. -/
theorem map_zero_of_map_xor {F : Byte → Byte} (hxor : ∀ a b, F (a ^^^ b) = F a ^^^ F b) : F 0 = 0 := by
  have h := hxor 0 0
  rwa [BitVec.xor_self, BitVec.xor_self] at h

/-- `GfMul` commutes, in the multiplicand, with every map that respects `^` and multiplication by x. -/
theorem gfMul_map {F : Byte → Byte} (hxor : ∀ a b, F (a ^^^ b) = F a ^^^ F b)
    (hshift : ∀ a, F (gfShift a) = gfShift (F a)) (a b : Byte) : gfMul (F a) b = F (gfMul a b) := by
  have h := gfLoop_map hxor hshift 8 0 a b
  rwa [map_zero_of_map_xor hxor] at h

/-- R112 (c), in the multiplicand. -/
theorem gfMul_xor_left (a b c : Byte) : gfMul (a ^^^ b) c = gfMul a c ^^^ gfMul b c :=
  gfLoop_xor 8 0 0 a b c

/-- Two multipliers may change places: multiplying by `b` respects `^` and multiplication by x, so
`gfMul_map` applies to it. -/
theorem gfMul_right_comm (a b c : Byte) : gfMul (gfMul a b) c = gfMul (gfMul a c) b :=
  gfMul_map (F := (gfMul · b)) (gfMul_xor_left · · b) (gfMul_map gfShift_xor (fun _ => rfl) · b) a c

/-- R112 (e), for the multiplicand 1. -/
@[simp] theorem gfMul_one_left (a : Byte) : gfMul 1#8 a = a := by
  revert a; decide +kernel

/-- R112 (a). -/
theorem gfMul_comm (a b : Byte) : gfMul a b = gfMul b a := by
  simpa using gfMul_right_comm 1 a b

/-- R112 (b). -/
theorem gfMul_assoc (a b c : Byte) : gfMul (gfMul a b) c = gfMul a (gfMul b c) := by
  rw [gfMul_comm a b, gfMul_right_comm, gfMul_comm]

/-- R112 (c), in the multiplier. -/
theorem gfMul_xor_right (a b c : Byte) : gfMul a (b ^^^ c) = gfMul a b ^^^ gfMul a c := by
  simp only [gfMul_comm a, gfMul_xor_left]

@[simp] theorem gfMul_zero_left (a : Byte) : gfMul 0#8 a = 0#8 :=
  map_zero_of_map_xor (F := (gfMul · a)) (gfMul_xor_left · · a)

@[simp] theorem gfMul_zero_right (a : Byte) : gfMul a 0#8 = 0#8 := map_zero_of_map_xor (gfMul_xor_right a)

@[simp] theorem gfMul_one_right (a : Byte) : gfMul a 1#8 = a := by rw [gfMul_comm, gfMul_one_left]

/-- R114: the 254th power of a byte other than zero is its inverse. -/
theorem gfMul_gfInv (a : Byte) (ha : a ≠ 0) : gfMul a (gfInv a) = 1#8 := by
  revert a; decide +kernel

/-- R112 (f): there are no zero divisors, since every byte other than zero has an inverse. -/
theorem gfMul_ne_zero {a b : Byte} (ha : a ≠ 0) (hb : b ≠ 0) : gfMul a b ≠ 0#8 := by
  intro h
  apply hb
  calc b = gfMul 1#8 b := (gfMul_one_left b).symm
    _ = gfMul (gfMul a (gfInv a)) b := by rw [gfMul_gfInv a ha]
    _ = gfMul (gfMul a b) (gfInv a) := gfMul_right_comm ..
    _ = gfMul 0#8 (gfInv a) := by rw [h]
    _ = 0 := gfMul_zero_left _

end Sys2Proof.Machine
end

section
/-! PROOF. `RStep` and `LDif` are linear over GF(2^8) for any tables (R126 (c)): they respect `^` and the
scaling of a Block by a byte. -/

namespace Sys2Proof.Machine

variable (T : Tables)

/-- `XORSUM` commutes with every map of bytes that respects `^`. -/
theorem xorSum_map {F : Byte → Byte} (hxor : ∀ a b, F (a ^^^ b) = F a ^^^ F b) (bytes : List Byte) :
    xorSum (bytes.map F) = F (xorSum bytes) := by
  unfold xorSum
  rw [List.foldl_map, ← List.foldl_hom F (g₂ := fun x y => x ^^^ F y) (fun a b => (hxor a b).symm),
    map_zero_of_map_xor hxor]

/-- `XORSUM` with any two starting values, of the byte-wise `^` of two lists. -/
theorem foldl_xor_zipWith_xor (x y : Byte) (as bs : List Byte) (h : as.length = bs.length) :
    (List.zipWith (· ^^^ ·) as bs).foldl (· ^^^ ·) (x ^^^ y) =
      as.foldl (· ^^^ ·) x ^^^ bs.foldl (· ^^^ ·) y := by
  induction as generalizing bs x y with
  | nil => cases bs with
    | nil => rfl
    | cons b bs => nomatch h
  | cons a as ih => cases bs with
    | nil => nomatch h
    | cons b bs =>
      have hstart : x ^^^ y ^^^ (a ^^^ b) = x ^^^ a ^^^ (y ^^^ b) := by ac_rfl
      rw [List.zipWith_cons_cons, List.foldl_cons, List.foldl_cons, List.foldl_cons, hstart,
        ih _ _ _ (Nat.succ.inj h)]

/-- The Block scaled by a byte: every byte multiplied by it. -/
def scaleBlock (c : Byte) (b : Block) : Block := mapBlock (gfMul c) b

@[simp] theorem scaleBlock_getElem (c : Byte) (b : Block) (i : Nat) (hi : i < 16) :
    (scaleBlock c b)[i] = gfMul c b[i] := mapBlock_getElem ..

@[simp] theorem linSum_xorBlock (a b : Block) : linSum T (xorBlock a b) = linSum T a ^^^ linSum T b := by
  have hterms : zipBlock gfMul (xorBlock a b) T.lvec =
      xorBlock (zipBlock gfMul a T.lvec) (zipBlock gfMul b T.lvec) :=
    block_ext fun i hi => by simp [gfMul_xor_left]
  rw [linSum, hterms]
  exact foldl_xor_zipWith_xor 0 0 _ _ (by simp)

@[simp] theorem linSum_scaleBlock (c : Byte) (b : Block) : linSum T (scaleBlock c b) = gfMul c (linSum T b) := by
  have hterms : zipBlock gfMul (scaleBlock c b) T.lvec = mapBlock (gfMul c) (zipBlock gfMul b T.lvec) :=
    block_ext fun i hi => by simp [gfMul_assoc]
  rw [linSum, hterms]
  exact xorSum_map (gfMul_xor_right c) _

/-- Two Blocks are equal when they agree below index 15 and at index 15, where `RStep` puts its sum. -/
theorem block_ext_last {a b : Block} (hlt : ∀ i (hi : i < 15), a[i] = b[i]) (hlast : a[15] = b[15]) : a = b :=
  block_ext fun i hi => by
    rcases Nat.lt_succ_iff_lt_or_eq.mp hi with h | rfl
    · exact hlt i h
    · exact hlast

theorem rStep_xorBlock (a b : Block) : rStep T (xorBlock a b) = xorBlock (rStep T a) (rStep T b) :=
  block_ext_last (fun i hi => by simp [rStep_getElem_lt, hi]) (by simp [rStep_getElem_last])

theorem rStep_scaleBlock (c : Byte) (b : Block) : rStep T (scaleBlock c b) = scaleBlock c (rStep T b) :=
  block_ext_last (fun i hi => by simp [rStep_getElem_lt, hi]) (by simp [rStep_getElem_last])

/-- Steps in sequence respect `^` if each does. -/
theorem iterate_xorBlock {f : Block → Block} (hf : ∀ a b, f (xorBlock a b) = xorBlock (f a) (f b)) (n : Nat)
    (a b : Block) : iterate f n (xorBlock a b) = xorBlock (iterate f n a) (iterate f n b) := by
  induction n generalizing a b with
  | zero => rfl
  | succ n ih => simp only [iterate_succ, hf, ih]

theorem lDif_xorBlock (a b : Block) : lDif T (xorBlock a b) = xorBlock (lDif T a) (lDif T b) :=
  iterate_xorBlock (rStep_xorBlock T) 16 a b

theorem lDif_scaleBlock (c : Byte) (b : Block) : lDif T (scaleBlock c b) = scaleBlock c (lDif T b) := by
  have h : Function.Commute (rStep T) (scaleBlock c) := rStep_scaleBlock T c
  simpa only [lDif, iterate_eq] using (h.iterate_left 16).eq b

/-- The unit Block `e_i` of section 4.4 of the test vectors: 1 at index `i`, zero elsewhere. -/
def unitBlock (i : Fin 16) : Block := (Vector.replicate 16 0).set i 1

/-- A changed byte adds a scaled unit Block. -/
theorem set_eq_xorBlock_scaleBlock_unitBlock (s : Block) (i : Fin 16) (v : Byte) :
    s.set i v = xorBlock s (scaleBlock (s[i] ^^^ v) (unitBlock i)) :=
  block_ext fun k hk => by
    by_cases h : i.val = k
    · subst h
      simp [unitBlock]
    · simp [unitBlock, h, Vector.getElem_set_ne]

/-- A changed byte of the input changes byte `j` of `LDif` by a multiple of the matrix entry in its row. -/
theorem lDif_set_getElem (s : Block) (i j : Fin 16) (v : Byte) :
    (lDif T (s.set i v))[j] = (lDif T s)[j] ^^^ gfMul (s[i] ^^^ v) (lDif T (unitBlock i))[j] := by
  rw [set_eq_xorBlock_scaleBlock_unitBlock, lDif_xorBlock, lDif_scaleBlock]
  simp

/-- Full diffusion, if no entry of the matrix of `LDif` is zero (R126 (d)). -/
theorem fullDiffusion_of_matrix_ne_zero (h : ∀ i j : Fin 16, (lDif T (unitBlock i))[j] ≠ 0) : FullDiffusion T := by
  intro s i j v hv
  have hd : s[i] ^^^ v ≠ 0 := fun h0 => hv (xor_eq_zero_iff.mp h0).symm
  rw [lDif_set_getElem, Ne, xor_left_eq_self_iff]
  exact gfMul_ne_zero hd (h i j)

end Sys2Proof.Machine
end

section
/-! PROOF. The standard tables meet the constraints of R6 (O47). -/

namespace Sys2Proof.Machine

/-- `PI` and `PI_INV` are mutual inverses over the full closed table (R102), and `LVEC[0]` is not zero. -/
theorem tables_invertible : tables.Invertible where
  piInv_pi := by decide +kernel
  pi_piInv := by decide +kernel
  lvec_zero := by decide

/-- The check of the matrix of `LDif`, one evaluation per row (section 4.4 of the test vectors). -/
theorem lDif_matrix_all_bne_zero (i : Fin 16) : (lDif tables (unitBlock i)).toList.all (· != 0) = true := by
  revert i; decide +kernel

/-- None of the 256 entries of the matrix of `LDif` is zero (R126 (d)). -/
theorem lDif_matrix_ne_zero (i j : Fin 16) : (lDif tables (unitBlock i))[j] ≠ 0 :=
  bne_iff_ne.mp (List.all_eq_true.mp (lDif_matrix_all_bne_zero i) _ (by simp))

theorem tables_fullDiffusion : FullDiffusion tables := fullDiffusion_of_matrix_ne_zero tables lDif_matrix_ne_zero

/-- The standard S-box with a vector whose only coefficient is `LVEC[0] = 1`: `RStep` then only rotates the
Block, and no byte meets another. -/
def rotationTables : Tables := { tables with lvec := unitBlock 0 }

theorem rotationTables_invertible : rotationTables.Invertible where
  piInv_pi := tables_invertible.piInv_pi
  pi_piInv := tables_invertible.pi_piInv
  lvec_zero := by decide

/-- With `rotationTables`, the all-zero Block and `e_0` give the same byte 1 of `LDif`. -/
theorem lDif_rotationTables_agree_at_one :
    (lDif rotationTables ((Vector.replicate 16 0).set (0 : Fin 16) 1))[(1 : Fin 16)] =
      (lDif rotationTables (Vector.replicate 16 0))[(1 : Fin 16)] := by decide +kernel

theorem not_rotationTables_fullDiffusion : ¬ FullDiffusion rotationTables := by
  intro h
  have hne : (1 : Byte) ≠ (Vector.replicate 16 0 : Block)[(0 : Fin 16)] := by decide
  exact h (Vector.replicate 16 0) 0 1 1 hne lDif_rotationTables_agree_at_one

/-- Settles O47: the standard tables by one evaluation of `LDif` per unit Block, to which its linearity
reduces full diffusion; `rotationTables` meet the other constraints and lack it. -/
theorem standardTablesMeetTheirConstraints : Obligations.StandardTablesMeetTheirConstraints :=
  ⟨{ tables_invertible with fullDiffusion := tables_fullDiffusion },
    rotationTables, rotationTables_invertible, fun h => not_rotationTables_fullDiffusion h.fullDiffusion⟩

end Sys2Proof.Machine
end

section
/-! PROOF. What one command does, as a function of the engine's state alone, and what a step does. The
statements about state, reset and invariants are read off from these two. -/

namespace Sys2Proof.Machine

/-- The state after a command has answered `g` and left the engine in state `k`; the pending events stay. -/
def State.after (s : State) (k : KeyState) (g : Frame) : State where
  st := k
  pending := s.pending
  responses := s.responses ++ [g]

namespace State

variable (s : State) (k : KeyState) (g : Frame)

@[simp] theorem after_st : (s.after k g).st = k := rfl
@[simp] theorem after_pending : (s.after k g).pending = s.pending := rfl
@[simp] theorem after_responses : (s.after k g).responses = s.responses ++ [g] := rfl

end State

/-- What a decoded frame `c`, taken by an engine in state `k`, can do: the engine's state after it and its one
response frame (R31, R66, R74, R177). -/
inductive Effect (c : Except Illegal Instr) (k : KeyState) : KeyState → Frame → Prop where
  /-- The first check that fails ends the command with its status byte alone. -/
  | refused (status : Status) (hcheck : failedCheck? c k = some status) : Effect c k k [status.code]
  /-- A command other than `KEYINIT` answers OK with its data. -/
  | answered (i : Instr) (data : List Byte) (hc : c = .ok i) (hop : i.op ≠ .keyinit)
      (hcheck : failedCheck? c k = none) (hlen : data.length = responseDataLength i.op) :
      Effect c k k (0x00 :: data)
  /-- `KEYINIT` of two Blocks keys an Unkeyed engine and answers OK without data. -/
  | keyed (b1 b2 : Block) (hc : c = .ok (.keyinit b1.toList b2.toList)) (hk : k = .unkeyed) :
      Effect c k (.keyed (deriveRoundKeys tables (roundConstants tables) b1 b2) (roundConstants tables)) [0x00]

/-- `run` carries out `c` in every state whose engine is in state `k`, with the same effect in all of them. -/
def Performs (run : State → Host.Outcome State Fault Refusal) (c : Except Illegal Instr) (k : KeyState) : Prop :=
  ∃ k' g, Effect c k k' g ∧ ∀ s : State, s.st = k → run s = .next (s.after k' g)

section
variable {run : State → Host.Outcome State Fault Refusal} {c : Except Illegal Instr} {k k' : KeyState}
  {s t : State} {g : Frame}

theorem performs_of_raise {status : Status} (hcheck : failedCheck? c k = some status)
    (hrun : ∀ s : State, s.st = k → run s = raise status s) : Performs run c k :=
  ⟨k, _, .refused status hcheck, fun s hs => by subst hs; exact hrun s rfl⟩

theorem performs_of_respond {i : Instr} {data : List Byte} (hop : i.op ≠ .keyinit)
    (hcheck : failedCheck? (.ok i) k = none) (hlen : data.length = responseDataLength i.op)
    (hrun : ∀ s : State, s.st = k → run s = respond data s) : Performs run (.ok i) k :=
  ⟨k, _, .answered i data rfl hop hcheck hlen, fun s hs => by subst hs; exact hrun s rfl⟩

/-- The one next state that a command has. -/
theorem Performs.of_next (hp : Performs run c s.st) (h : run s = .next t) :
    ∃ k' g, Effect c s.st k' g ∧ t = s.after k' g := by
  obtain ⟨k', g, he, hrun⟩ := hp
  rw [hrun s rfl] at h
  exact ⟨k', g, he, by cases h; rfl⟩

/-! ## The commands -/

/-- In the Keyed state `KEYINIT` is refused whatever the lengths (R142). -/
theorem execKeyinit_of_keyed {rk : RoundKeys} {rc : RoundConstants} (h : s.st = .keyed rk rc) (k1 k2 : List Byte) :
    execKeyinit k1 k2 s = raise .alreadyKeyed s := by
  simp [execKeyinit, h]

/-- In the Unkeyed state `KEYINIT` refuses a half of the wrong length (R142). -/
theorem execKeyinit_wrong {k1 k2 : List Byte} (h : s.st = .unkeyed) (hl : k1.length ≠ 16 ∨ k2.length ≠ 16) :
    execKeyinit k1 k2 s = raise .invalidKeyLength s := by
  rcases hl with h1 | h2
  · simp [execKeyinit, h, toBlock?_eq_none h1]
  · simp [execKeyinit, h, toBlock?_eq_none h2]

/-- In the Unkeyed state `KEYINIT` of two Blocks writes the constants, the keys and the flag (R142). -/
theorem execKeyinit_toList (h : s.st = .unkeyed) (b1 b2 : Block) :
    execKeyinit b1.toList b2.toList s = .next (s.after
      (.keyed (deriveRoundKeys tables (roundConstants tables) b1 b2) (roundConstants tables)) [0x00]) := by
  simp only [execKeyinit, h, toBlock?_toList]
  rfl

/-- A byte string of length 16 is the bytes of a Block. -/
theorem exists_block_of_length {data : List Byte} (h : data.length = 16) : ∃ b : Block, data = b.toList := by
  obtain ⟨b, hb⟩ := Option.isSome_iff_exists.mp (toBlock?_isSome.mpr h)
  exact ⟨b, toBlock?_eq_some.mp hb⟩

theorem keyinit_performs (k1 k2 : List Byte) (k : KeyState) :
    Performs (execKeyinit k1 k2) (.ok (.keyinit k1 k2)) k := by
  cases k with
  | keyed rk rc => exact performs_of_raise rfl fun s hs => execKeyinit_of_keyed hs k1 k2
  | unkeyed =>
    by_cases hl : k1.length ≠ 16 ∨ k2.length ≠ 16
    · exact performs_of_raise (by simp [failedCheck?, KeyState.flag, hl]) fun s hs => execKeyinit_wrong hs hl
    · obtain ⟨h1, h2⟩ : k1.length = 16 ∧ k2.length = 16 := by simpa using hl
      obtain ⟨b1, rfl⟩ := exists_block_of_length h1
      obtain ⟨b2, rfl⟩ := exists_block_of_length h2
      exact ⟨_, _, .keyed b1 b2 rfl rfl, fun s hs => execKeyinit_toList hs b1 b2⟩

/-- A command that reads the register files behind the state check alone: `RDRK`, `RDRC` (R74). -/
theorem requireKeyed_performs {i : Instr} {out : RoundKeys → RoundConstants → List Byte} (hop : i.op ≠ .keyinit)
    (hcheck : ∀ k, failedCheck? (.ok i) k = if k.flag = false then some .notKeyed else none)
    (hlen : ∀ rk rc, (out rk rc).length = responseDataLength i.op) (k : KeyState) :
    Performs (fun s => requireKeyed s fun rk rc => respond (out rk rc) s) (.ok i) k := by
  cases k with
  | unkeyed => exact performs_of_raise (hcheck _) fun s hs => requireKeyed_unkeyed hs _
  | keyed rk rc => exact performs_of_respond hop (hcheck _) (hlen rk rc) fun s hs => requireKeyed_keyed hs _

/-- A command behind the state check and the length check: `ENC`, `DEC` (R74). -/
theorem requireBlock_performs {i : Instr} {data : List Byte} {out : RoundKeys → Block → Block}
    (hop : i.op ≠ .keyinit) (hresp : responseDataLength i.op = 16)
    (hcheck : ∀ k, failedCheck? (.ok i) k = if k.flag = false then some .notKeyed
      else if data.length ≠ 16 then some .invalidBlockSize else none) (k : KeyState) :
    Performs (fun s => requireKeyed s fun rk _ => requireBlock data s fun b => respond (out rk b).toList s)
      (.ok i) k := by
  cases k with
  | unkeyed => exact performs_of_raise (hcheck _) fun s hs => requireKeyed_unkeyed hs _
  | keyed rk rc =>
    by_cases hl : data.length = 16
    · obtain ⟨b, rfl⟩ := exists_block_of_length hl
      refine performs_of_respond (data := (out rk b).toList) hop ?_ (by simp [hresp]) fun s hs => ?_
      · simp [hcheck, KeyState.flag]
      · rw [requireKeyed_keyed hs, requireBlock_toList]
    · refine performs_of_raise (status := .invalidBlockSize) ?_ fun s hs => ?_
      · simp [hcheck, KeyState.flag, hl]
      · rw [requireKeyed_keyed hs, requireBlock_wrong hl]

/-- Every command has one effect, which depends on the engine's state alone. -/
theorem exec_performs (i : Instr) (k : KeyState) : Performs (exec i) (.ok i) k := by
  cases i with
  | keyinit k1 k2 => exact keyinit_performs k1 k2 k
  | enc data => exact requireBlock_performs (i := .enc data) nofun rfl (fun _ => rfl) k
  | dec data => exact requireBlock_performs (i := .dec data) nofun rfl (fun _ => rfl) k
  | rdrk idx =>
    exact requireKeyed_performs (i := .rdrk idx) nofun (fun _ => rfl) (fun _ _ => Vector.length_toList) k
  | rdrc idx =>
    exact requireKeyed_performs (i := .rdrc idx) nofun (fun _ => rfl) (fun _ _ => Vector.length_toList) k
  | gfmul a b => exact performs_of_respond nofun rfl rfl fun _ _ => rfl
  | sub blk => exact performs_of_respond nofun rfl Vector.length_toList fun _ _ => rfl
  | isub blk => exact performs_of_respond nofun rfl Vector.length_toList fun _ _ => rfl
  | rstep blk => exact performs_of_respond nofun rfl Vector.length_toList fun _ _ => rfl
  | ldif blk => exact performs_of_respond nofun rfl Vector.length_toList fun _ _ => rfl
  | irstep blk => exact performs_of_respond nofun rfl Vector.length_toList fun _ _ => rfl
  | ildif blk => exact performs_of_respond nofun rfl Vector.length_toList fun _ _ => rfl

/-- Every frame has one effect, which depends on the engine's state alone. -/
theorem stepFrame_performs (f : Frame) (k : KeyState) : Performs (stepFrame f) (decode f) k := by
  cases hd : decode f with
  | error e => exact performs_of_raise rfl fun s _ => stepFrame_error hd s
  | ok i =>
    obtain ⟨k', g, he, hrun⟩ := exec_performs i k
    exact ⟨k', g, he, fun s hs => (stepFrame_ok hd s).trans (hrun s hs)⟩

/-! ## The step -/

theorem step_of_nil (h : s.pending = []) : step s = .next s := by
  simp [step, h]

theorem step_of_command {f : Frame} {rest : List HostEvent} (h : s.pending = .command f :: rest) :
    step s = stepFrame f (s.withPending rest) := by
  simp [step, h, takeEvent]

theorem step_of_reset {rest : List HostEvent} (h : s.pending = .reset :: rest) :
    step s = .next (s.withPending rest).resetEngine := by
  simp [step, h, takeEvent]

/-! ## What an effect keeps -/

/-- An effect changes the engine's state only as a successful `KEYINIT` (R31). -/
theorem Effect.eq_or_keyinit (he : Effect c k k' g) :
    k' = k ∨ (k = .unkeyed ∧ k'.flag = true ∧ g = [0x00] ∧
      ∃ b1 b2 : Block, c = .ok (.keyinit b1.toList b2.toList)) := by
  cases he with
  | refused => exact .inl rfl
  | answered => exact .inl rfl
  | keyed b1 b2 hc hk => exact .inr ⟨hk, rfl, rfl, b1, b2, hc⟩

/-- The keys and constants that an effect loads are derived (R22, R23). -/
theorem Effect.derived (he : Effect c k k' g) (hk : k.Derived) : k'.Derived := by
  cases he with
  | refused => exact hk
  | answered => exact hk
  | keyed b1 b2 => exact ⟨rfl, b1, b2, rfl⟩

theorem Status.code_toNat_le (status : Status) : status.code.toNat ≤ 5 := by
  cases status <;> decide

theorem responseDataLength_eq_of_ne_keyinit {o : Op} (h : o ≠ .keyinit) :
    responseDataLength o = 1 ∨ responseDataLength o = 16 := by
  cases o <;> simp_all [responseDataLength]

theorem Effect.legalResponse (he : Effect c k k' g) : legalResponse g := by
  cases he with
  | refused status => exact .inl ⟨_, status.code_toNat_le, rfl⟩
  | answered i data hc hop hcheck hlen =>
    exact .inr ⟨data, rfl, by rw [hlen]; exact responseDataLength_eq_of_ne_keyinit hop⟩
  | keyed => exact .inl ⟨0x00, by decide, rfl⟩

theorem State.Inv.after (hs : s.Inv) (he : Effect c s.st k' g) : (s.after k' g).Inv where
  st := he.derived hs.st
  responses := List.forall_mem_append.mpr ⟨hs.responses, List.forall_mem_singleton.mpr he.legalResponse⟩

/-- The invariant does not speak of the pending events. -/
theorem State.Inv.withPending (hs : s.Inv) (rest : List HostEvent) : (s.withPending rest).Inv where
  st := hs.st
  responses := hs.responses

theorem State.Inv.resetEngine (hs : s.Inv) : s.resetEngine.Inv where
  st := trivial
  responses := hs.responses

end

/-! ## The obligations -/

/-- Settles O15: the three ways to step each keep the invariant, a command because its effect does. -/
theorem everyStepKeepsTheInvariant : Obligations.EveryStepKeepsTheInvariant := by
  intro s t hs h
  rcases step_cases h with ⟨-, rfl⟩ | ⟨f, rest, -, hf⟩ | ⟨rest, -, rfl⟩
  · exact hs
  · obtain ⟨k', g, he, rfl⟩ := (stepFrame_performs f _).of_next hf
    exact (hs.withPending rest).after he
  · exact (hs.withPending rest).resetEngine

/-- Settles O12: each clause is read off from the effect of the command or frame. -/
theorem onlySuccessfulKeyinitChangesTheEngine : Obligations.OnlySuccessfulKeyinitChangesTheEngine := by
  refine ⟨fun i s t h hne => ?_, fun f s t g h hg hstatus => ?_, fun s t h hflag => ?_⟩
  · obtain ⟨k', g, he, rfl⟩ := (exec_performs i _).of_next h
    rcases he.eq_or_keyinit with heq | ⟨hu, hk, rfl, b1, b2, hi⟩
    · exact absurd heq hne
    · exact ⟨hu, hk, ⟨_, _, Except.ok.inj hi⟩, rfl⟩
  · obtain ⟨k', g', he, rfl⟩ := (stepFrame_performs f _).of_next h
    obtain rfl : g' = g := by simpa using hg
    rcases he.eq_or_keyinit with heq | ⟨-, -, rfl, -⟩
    · exact heq
    · exact absurd rfl hstatus
  · rcases step_cases h with ⟨-, rfl⟩ | ⟨f, rest, -, hf⟩ | ⟨rest, hp, -⟩
    · exact .inl rfl
    · obtain ⟨k', g, he, rfl⟩ := (stepFrame_performs f _).of_next hf
      rcases he.eq_or_keyinit with heq | ⟨hu, -⟩
      · exact .inl heq
      · rw [State.withPending_st] at hu
        simp [hu, KeyState.flag] at hflag
    · exact .inr ⟨rest, hp⟩

/-- Settles O13, by the effect of the command. -/
theorem commandFrame : Obligations.CommandFrame := by
  intro i s t h
  obtain ⟨k', g, he, rfl⟩ := (exec_performs i _).of_next h
  refine ⟨rfl, ⟨g, rfl⟩, ?_⟩
  rcases he.eq_or_keyinit with heq | ⟨hu, -, -, b1, b2, hi⟩
  · exact .inl heq
  · exact .inr ⟨hu, b1, b2, Except.ok.inj hi⟩

/-- Settles O19: a frame has the same effect in both runs, since their engine states are equal. -/
theorem responsesAreNeverRead : Obligations.ResponsesAreNeverRead := by
  intro s t other h
  rcases step_cases h with ⟨hp, rfl⟩ | ⟨f, rest, hp, hf⟩ | ⟨rest, hp, rfl⟩
  · refine ⟨[], (List.append_nil _).symm, ?_⟩
    rw [List.append_nil]
    exact step_of_nil hp
  · obtain ⟨k', g, -, hrun⟩ := stepFrame_performs f s.st
    obtain rfl : (s.withPending rest).after k' g = t := by
      simpa [hrun (s.withPending rest) rfl] using hf
    exact ⟨[g], rfl, (step_of_command (s := { s with responses := other }) hp).trans (hrun _ rfl)⟩
  · refine ⟨[], (List.append_nil _).symm, ?_⟩
    rw [List.append_nil]
    exact step_of_reset hp

/-- Settles O6: the step on a pending command frame is that of the frame, decoded or not. -/
theorem stepRunsTheDecodedCommand : Obligations.StepRunsTheDecodedCommand :=
  fun _ _ _ hp => ⟨fun _ hd => (step_of_command hp).trans (stepFrame_ok hd _),
    fun _ hd => (step_of_command hp).trans (stepFrame_error hd _)⟩

/-- Settles O10, field by field. -/
theorem resetLeavesAnUnkeyedEngine : Obligations.ResetLeavesAnUnkeyedEngine := ⟨rfl, rfl, rfl, rfl⟩

/-- Settles O14: the engine is Unkeyed and there is no response to check. -/
theorem resetMeetsTheInvariant : Obligations.ResetMeetsTheInvariant where
  st := trivial
  responses := List.forall_mem_nil _

end Sys2Proof.Machine
end

section
/-! PROOF. Commands that leave the engine alone commute (R48 (b)): the response of each depends on the engine's
state alone, which the other does not change. -/

namespace Sys2Proof.Machine

/-- R31: a frame that is no successful `KEYINIT` only adds its response, the same one in every state whose engine
is in the same state. -/
theorem stepFrame_answered_of_not_successfulKeyinit {f : Frame} {s : State} (hf : ¬ successfulKeyinit f s) :
    ∃ g, ∀ t : State, t.st = s.st → stepFrame f t = .next (t.answered g) := by
  obtain ⟨k', g, he, hrun⟩ := stepFrame_performs f s.st
  have hk : k' = s.st := by
    rcases he.eq_or_keyinit with heq | ⟨hu, -, -, hkeyinit⟩
    · exact heq
    · exact absurd ⟨hu, hkeyinit⟩ hf
  refine ⟨g, fun t ht => ?_⟩
  rw [hrun t ht, hk, ← ht]
  rfl

/-- Settles O18: each frame finds the engine as the other found it, whichever comes first. -/
theorem otherCommandsCommute : Obligations.OtherCommandsCommute := by
  intro f g s hf hg
  obtain ⟨a, ha⟩ := stepFrame_answered_of_not_successfulKeyinit hf
  obtain ⟨b, hb⟩ := stepFrame_answered_of_not_successfulKeyinit hg
  exact ⟨a, b, ha s rfl, hb s rfl, hb _ rfl, ha _ rfl⟩

end Sys2Proof.Machine
end

section
/-! PROOF. Decode and encode are inverse to each other (R61 to R65, R69). The one idea: each operand decoder
answers a command exactly on the operand bytes that the encoder writes for it. -/

namespace Sys2Proof

section
variable {ops : List Byte} {i : Instr}

/-- A length byte tells a byte string's length exactly when it is the length byte of a string that fits
one (R61, R62). -/
theorem length_eq_toNat_iff {len : Byte} {data : List Byte} :
    data.length = len.toNat ↔ fitsLengthByte data = true ∧ lengthByte data = len := by
  constructor
  · intro h
    have hlt := len.isLt
    refine ⟨?_, ?_⟩
    · simp only [fitsLengthByte, decide_eq_true_eq]; omega
    · rw [lengthByte, h, BitVec.ofNat_toNat, BitVec.setWidth_eq]
  · rintro ⟨hfits, rfl⟩
    exact (lengthByte_toNat hfits).symm

/-- Format V (R62). -/
theorem decodeBytes_eq_ok {mk : List Byte → Instr} : decodeBytes mk ops = .ok i ↔
    ∃ data, fitsLengthByte data = true ∧ ops = lengthByte data :: data ∧ mk data = i := by
  constructor
  · intro h
    unfold decodeBytes at h
    split at h
    · next len data =>
      split at h
      · next hlen =>
        obtain ⟨hfits, rfl⟩ := length_eq_toNat_iff.mp hlen
        exact ⟨data, hfits, rfl, Except.ok.inj h⟩
      · cases h
    · cases h
  · rintro ⟨data, hfits, rfl, rfl⟩
    exact if_pos (lengthByte_toNat hfits).symm

/-- Format K (R61). -/
theorem decodeTwoBytes_eq_ok {mk : List Byte → List Byte → Instr} : decodeTwoBytes mk ops = .ok i ↔
    ∃ k1 k2, fitsLengthByte k1 = true ∧ fitsLengthByte k2 = true ∧
      ops = lengthByte k1 :: lengthByte k2 :: (k1 ++ k2) ∧ mk k1 k2 = i := by
  constructor
  · intro h
    unfold decodeTwoBytes at h
    split at h
    · next len1 len2 body =>
      split at h
      · next hlen =>
        have h1 : (body.take len1.toNat).length = len1.toNat := by rw [List.length_take]; omega
        have h2 : (body.drop len1.toNat).length = len2.toNat := by rw [List.length_drop]; omega
        obtain ⟨hfits1, hbyte1⟩ := length_eq_toNat_iff.mp h1
        obtain ⟨hfits2, hbyte2⟩ := length_eq_toNat_iff.mp h2
        exact ⟨_, _, hfits1, hfits2, by rw [hbyte1, hbyte2, List.take_append_drop], Except.ok.inj h⟩
      · cases h
    · cases h
  · rintro ⟨k1, k2, hfits1, hfits2, rfl, rfl⟩
    simp [decodeTwoBytes, lengthByte_toNat hfits1, lengthByte_toNat hfits2]

/-- Format B (R63). -/
theorem decodeBlock_eq_ok {mk : Block → Instr} : decodeBlock mk ops = .ok i ↔
    ∃ blk : Block, ops = blk.toList ∧ mk blk = i := by
  constructor
  · intro h
    unfold decodeBlock at h
    split at h
    · exact ⟨_, rfl, Except.ok.inj h⟩
    · cases h
  · rintro ⟨blk, rfl, rfl⟩
    exact dif_pos Vector.length_toList

/-- Format G (R64). -/
theorem decodePair_eq_ok {mk : Byte → Byte → Instr} : decodePair mk ops = .ok i ↔
    ∃ a b, ops = [a, b] ∧ mk a b = i := by
  constructor
  · intro h
    unfold decodePair at h
    split at h
    · exact ⟨_, _, rfl, Except.ok.inj h⟩
    · cases h
  · rintro ⟨a, b, rfl, rfl⟩
    rfl

/-- Format I, for a register file whose indices fit one byte (R65). -/
theorem decodeIndex_eq_ok {size : Nat} (hsize : size ≤ 256) {mk : Fin size → Instr} :
    decodeIndex size mk ops = .ok i ↔ ∃ idx : Fin size, ops = [BitVec.ofNat 8 idx.val] ∧ mk idx = i := by
  constructor
  · intro h
    unfold decodeIndex at h
    split at h
    · next idx =>
      split at h
      · next hlt => exact ⟨⟨idx.toNat, hlt⟩, by simp, Except.ok.inj h⟩
      · cases h
    · cases h
  · rintro ⟨idx, rfl, rfl⟩
    have hmod : idx.val % 256 = idx.val := Nat.mod_eq_of_lt (idx.isLt.trans_le hsize)
    simp [decodeIndex, hmod]

end

/-- A mnemonic's operand decoder reads every well-formed command of that mnemonic back. -/
theorem decodeOperands_encodeOperands {i : Instr} (h : i.wellFormed = true) :
    decodeOperands i.op (encodeOperands i) = .ok i := by
  cases i
  case keyinit k1 k2 =>
    obtain ⟨h1, h2⟩ := Bool.and_eq_true_iff.mp h
    exact decodeTwoBytes_eq_ok.mpr ⟨k1, k2, h1, h2, rfl, rfl⟩
  case enc data | dec data => exact decodeBytes_eq_ok.mpr ⟨data, h, rfl, rfl⟩
  case gfmul a b => rfl
  case rdrk idx | rdrc idx => exact (decodeIndex_eq_ok (by decide)).mpr ⟨idx, rfl, rfl⟩
  case sub blk | isub blk | rstep blk | ldif blk | irstep blk | ildif blk =>
    exact decodeBlock_eq_ok.mpr ⟨blk, rfl, rfl⟩

/-- A mnemonic's operand decoder answers well-formed commands of that mnemonic only, each on its own operand
bytes only. -/
theorem encodeOperands_of_decodeOperands {o : Op} {ops : List Byte} {i : Instr} (h : decodeOperands o ops = .ok i) :
    i.op = o ∧ i.wellFormed = true ∧ encodeOperands i = ops := by
  cases o
  case keyinit =>
    obtain ⟨k1, k2, h1, h2, rfl, rfl⟩ := decodeTwoBytes_eq_ok.mp h
    exact ⟨rfl, Bool.and_eq_true_iff.mpr ⟨h1, h2⟩, rfl⟩
  case enc | dec =>
    obtain ⟨data, hfits, rfl, rfl⟩ := decodeBytes_eq_ok.mp h
    exact ⟨rfl, hfits, rfl⟩
  case gfmul =>
    obtain ⟨a, b, rfl, rfl⟩ := decodePair_eq_ok.mp h
    exact ⟨rfl, rfl, rfl⟩
  case rdrk | rdrc =>
    obtain ⟨idx, rfl, rfl⟩ := (decodeIndex_eq_ok (by decide)).mp h
    exact ⟨rfl, rfl, rfl⟩
  case sub | isub | rstep | ldif | irstep | ildif =>
    obtain ⟨blk, rfl, rfl⟩ := decodeBlock_eq_ok.mp h
    exact ⟨rfl, rfl, rfl⟩

/-- A frame that decodes starts with a mnemonic's opcode, and its operands are read by that mnemonic's operand
decoder (R69). -/
theorem decode_eq_ok {f : Frame} {i : Instr} (h : decode f = .ok i) :
    ∃ o ops, f = o.code :: ops ∧ decodeOperands o ops = .ok i := by
  cases f with
  | nil => cases h
  | cons op ops =>
    cases ho : Op.ofCode? op with
    | none => simp [decode, ho] at h
    | some o =>
      obtain rfl := Op.code_of_ofCode? ho
      exact ⟨o, ops, rfl, by simpa using h⟩

/-- Settles O1: the operand decoder of the command's own mnemonic reads its operand bytes back. -/
theorem decodeReadsEncodedCommand : Obligations.DecodeReadsEncodedCommand :=
  fun i h => (decode_encode_eq i).trans (decodeOperands_encodeOperands h)

/-- Settles O2: the opcode is that of the command's mnemonic, and the operand bytes are its own. -/
theorem decodedFrameIsTheCommandsFrame : Obligations.DecodedFrameIsTheCommandsFrame := by
  intro f i h
  obtain ⟨o, ops, rfl, hops⟩ := decode_eq_ok h
  obtain ⟨rfl, hwf, rfl⟩ := encodeOperands_of_decodeOperands hops
  exact ⟨hwf, rfl⟩

/-- Settles O4: each frame is decoded by evaluation. -/
theorem writtenOutFramesDecode : Obligations.WrittenOutFramesDecode :=
  ⟨rfl, rfl, rfl, rfl, rfl, rfl, rfl⟩

end Sys2Proof
end

section
/-! PROOF. The reserved encodings of R70 are the illegal frames: an operand decoder fails exactly on the operand
bytes whose number its format does not require, or whose index is out of range. -/

namespace Sys2Proof.Machine

section
variable {ops : List Byte}

/-- Format V (R62). -/
theorem exists_decodeBytes_eq_error {mk : List Byte → Instr} :
    (∃ e, decodeBytes mk ops = .error e) ↔ ops.length + 1 ≠ 2 + (ops.getD 0 0).toNat := by
  cases ops with
  | nil => simp [decodeBytes]
  | cons len data =>
    by_cases h : data.length = len.toNat <;> simp [decodeBytes, h] <;> omega

/-- Format K (R61). -/
theorem exists_decodeTwoBytes_eq_error {mk : List Byte → List Byte → Instr} :
    (∃ e, decodeTwoBytes mk ops = .error e) ↔
      ops.length + 1 ≠ 3 + (ops.getD 0 0).toNat + (ops.getD 1 0).toNat := by
  match ops with
  | [] => simp [decodeTwoBytes]
  | [len1] => simp [decodeTwoBytes]; omega
  | len1 :: len2 :: body =>
    by_cases h : body.length = len1.toNat + len2.toNat <;> simp [decodeTwoBytes, h] <;> omega

/-- Format B (R63). -/
theorem exists_decodeBlock_eq_error {mk : Block → Instr} :
    (∃ e, decodeBlock mk ops = .error e) ↔ ops.length + 1 ≠ 17 := by
  by_cases h : ops.length = 16 <;> simp [decodeBlock, h]

/-- Format G (R64). -/
theorem exists_decodePair_eq_error {mk : Byte → Byte → Instr} :
    (∃ e, decodePair mk ops = .error e) ↔ ops.length + 1 ≠ 3 := by
  match ops with
  | [] => simp [decodePair]
  | [a] => simp [decodePair]
  | [a, b] => simp [decodePair]
  | a :: b :: c :: rest => simp [decodePair]

/-- Format I: the number of bytes, or the index (R65, R70). -/
theorem exists_decodeIndex_eq_error {size : Nat} {mk : Fin size → Instr} :
    (∃ e, decodeIndex size mk ops = .error e) ↔
      ops.length + 1 ≠ 2 ∨ ∃ idx : Byte, ops = [idx] ∧ size ≤ idx.toNat := by
  match ops with
  | [] => simp [decodeIndex]
  | [idx] =>
    by_cases h : idx.toNat < size
    · simp [decodeIndex, h]
    · simp [decodeIndex, h, Nat.le_of_not_lt h]
  | a :: b :: rest => simp [decodeIndex]

end

/-- The opcodes R70 lists as reserved are those without a mnemonic in R68. -/
theorem reservedOpcode_iff_ofCode?_eq_none (op : Byte) : reservedOpcode op ↔ Op.ofCode? op = none := by
  unfold reservedOpcode
  revert op; decide +kernel

theorem not_reservedOpcode_code (o : Op) : ¬ reservedOpcode o.code := by
  simp [reservedOpcode_iff_ofCode?_eq_none]

/-- What R70 reserves of the frames with a known opcode. -/
theorem reservedFrame_code (o : Op) (ops : List Byte) : reservedFrame (o.code :: ops) ↔
    (∃ n, frameLength? (o.code :: ops) = some n ∧ ops.length + 1 ≠ n) ∨
      (∃ idx : Byte, (o.code = 0x20 ∧ ops = [idx]) ∧ 10 ≤ idx.toNat) ∨
      (∃ idx : Byte, (o.code = 0x21 ∧ ops = [idx]) ∧ 32 ≤ idx.toNat) := by
  simp [reservedFrame, not_reservedOpcode_code]

/-- Among the frames with a known opcode, R70 reserves those whose operand bytes do not decode. -/
theorem reservedFrame_code_iff (o : Op) (ops : List Byte) :
    reservedFrame (o.code :: ops) ↔ ∃ e, decodeOperands o ops = .error e := by
  rw [reservedFrame_code, frameLength?_code]
  cases o
  case keyinit => simp [Op.code, Op.format, decodeOperands, exists_decodeTwoBytes_eq_error]
  case enc | dec => simp [Op.code, Op.format, decodeOperands, exists_decodeBytes_eq_error]
  case gfmul => simp [Op.code, Op.format, decodeOperands, exists_decodePair_eq_error]
  case rdrk | rdrc => simp [Op.code, Op.format, decodeOperands, exists_decodeIndex_eq_error]
  case sub | isub | rstep | ldif | irstep | ildif =>
    simp [Op.code, Op.format, decodeOperands, exists_decodeBlock_eq_error]

/-- The reserved encodings of R70 are exactly the illegal frames. -/
theorem reservedFrame_iff_decode_eq_error (f : Frame) : reservedFrame f ↔ ∃ e, decode f = .error e := by
  cases f with
  | nil => simp [reservedFrame]
  | cons op ops =>
    cases ho : Op.ofCode? op with
    | none =>
      have hop := (reservedOpcode_iff_ofCode?_eq_none op).mpr ho
      exact ⟨fun _ => ⟨.unknownOpcode, by simp [decode, ho]⟩, fun _ => .inr (.inl ⟨op, ops, rfl, hop⟩)⟩
    | some o =>
      obtain rfl := Op.code_of_ofCode? ho
      rw [decode_code, reservedFrame_code_iff]

/-- Settles O3: an illegal frame is answered by the step on a frame that does not decode. -/
theorem reservedFramesAreRefused : Obligations.ReservedFramesAreRefused := by
  refine fun f => ⟨reservedFrame_iff_decode_eq_error f, fun hf s => ?_⟩
  obtain ⟨e, he⟩ := (reservedFrame_iff_decode_eq_error f).mp hf
  exact stepFrame_error he s

end Sys2Proof.Machine
end

section
/-! PROOF. The step on one frame, by the effect of what it decodes to: the checks of R74 in their order, the one
response of R66, and the frame of a word of the opcode table. -/

namespace Sys2Proof.Machine

section
variable {c : Except Illegal Instr} {k k' : KeyState} {g : Frame}

/-- A failing check leaves the engine as it was and answers with its status byte alone (R74, R177). -/
theorem Effect.of_failedCheck?_eq_some (he : Effect c k k' g) {status : Status}
    (hcheck : failedCheck? c k = some status) : k' = k ∧ g = [status.code] := by
  cases he with
  | refused status' hcheck' =>
    obtain rfl : status' = status := Option.some.inj (hcheck'.symm.trans hcheck)
    exact ⟨rfl, rfl⟩
  | answered i data hc hop hnone => simp [hnone] at hcheck
  | keyed b1 b2 hc hk => simp [hc, hk, failedCheck?, KeyState.flag] at hcheck

/-- If no check fails, the command answers OK with its data (R66, R74). -/
theorem Effect.of_failedCheck?_eq_none (he : Effect c k k' g) (hcheck : failedCheck? c k = none) :
    ∃ i data, c = .ok i ∧ g = 0x00 :: data ∧ data.length = responseDataLength i.op := by
  cases he with
  | refused status hsome => simp [hsome] at hcheck
  | answered i data hc hop hnone hlen => exact ⟨i, data, hc, rfl, hlen⟩
  | keyed b1 b2 hc => exact ⟨_, [], hc, rfl, rfl⟩

/-- No check fails with status OK (R74). -/
theorem failedCheck?_ne_some_ok (c : Except Illegal Instr) (k : KeyState) : failedCheck? c k ≠ some .ok := by
  cases c with
  | error e => exact nofun
  | ok i =>
    cases i
    case keyinit | enc | dec | rdrk | rdrc =>
      simp only [failedCheck?]
      split_ifs <;> exact nofun
    case gfmul | sub | isub | rstep | ldif | irstep | ildif => exact nofun

/-- The status byte of a refusal is one of 0x01..0x05 (R67). -/
theorem Status.one_le_code_toNat {status : Status} (h : status ≠ .ok) : 1 ≤ status.code.toNat := by
  cases status
  case ok => exact absurd rfl h
  case invalidKeyLength | invalidBlockSize | notKeyed | alreadyKeyed | illegalCommand => decide

end

/-- Settles O8: the frame's effect answers the status of the first failing check, or OK if none fails. -/
theorem checksEndTheCommandInOrder : Obligations.ChecksEndTheCommandInOrder := by
  intro f s
  obtain ⟨k', g, he, hrun⟩ := stepFrame_performs f s.st
  refine ⟨fun status hcheck => ?_, fun hcheck => ?_⟩
  · obtain ⟨rfl, rfl⟩ := he.of_failedCheck?_eq_some hcheck
    exact hrun s rfl
  · obtain ⟨i, data, hd, rfl, -⟩ := he.of_failedCheck?_eq_none hcheck
    have hexec : stepFrame f s = exec i s := stepFrame_ok hd s
    exact ⟨i, data, _, hd, hexec, hexec.symm.trans (hrun s rfl), rfl, rfl⟩

/-- Settles O9: the frame has one effect, with a status byte from 0x01 to 0x05 alone if a check fails, and with
its command's data if none does. -/
theorem everyCommandGetsOneResponse : Obligations.EveryCommandGetsOneResponse := by
  intro s f rest hp
  obtain ⟨k', g, he, hrun⟩ := stepFrame_performs f s.st
  refine ⟨_, g, (step_of_command hp).trans (hrun (s.withPending rest) rfl), rfl, rfl, ?_⟩
  cases hcheck : failedCheck? (decode f) s.st with
  | some status =>
    have hne : status ≠ .ok := fun h => failedCheck?_ne_some_ok _ _ (h ▸ hcheck)
    obtain ⟨-, rfl⟩ := he.of_failedCheck?_eq_some hcheck
    exact .inl ⟨_, Status.one_le_code_toNat hne, status.code_toNat_le, rfl⟩
  | none => exact .inr (he.of_failedCheck?_eq_none hcheck)

/-- What is read from a table word is read from the frame it stands for (R69). -/
theorem decode_frameOfWord {nbits w : Nat} {i : Instr} (h : decodeTableWord nbits w = some i) :
    decode (frameOfWord nbits w) = .ok i := by
  unfold decodeTableWord at h
  cases hd : decode (frameOfWord nbits w) with
  | error e => simp [hd, Except.toOption] at h
  | ok j => simpa [hd, Except.toOption] using h

/-- Settles O5: the step takes the word's frame from the head of the pending events, which are then as before. -/
theorem fetchedTableWordRuns : Obligations.FetchedTableWordRuns :=
  fun s nbits w _ h => (step_of_command (s.withFetchWord_pending nbits w)).trans
    (stepFrame_ok (decode_frameOfWord h) s)

end Sys2Proof.Machine
end

section
/-! PROOF. The S-box substitution engine (R100 to R105): one table at every byte, undone by the other one, and the
commands that answer with it. -/

namespace Sys2Proof.Machine

theorem mapBlock_toList (f : Byte → Byte) (b : Block) : (mapBlock f b).toList = b.toList.map f := rfl

/-- Sixteen equal bytes give sixteen equal bytes. -/
theorem mapBlock_replicate (f : Byte → Byte) (v : Byte) :
    mapBlock f (Vector.replicate 16 v) = Vector.replicate 16 (f v) :=
  block_ext fun i hi => by simp

section
variable {T : Tables}

/-- `ISub` undoes `Sub` in each lane (R102). -/
theorem iSub_sub (hT : T.Invertible) (b : Block) : iSub T (sub T b) = b :=
  block_ext fun i hi => by simp [hT.piInv_pi]

/-- `Sub` undoes `ISub` in each lane (R102). -/
theorem sub_iSub (hT : T.Invertible) (b : Block) : sub T (iSub T b) = b :=
  block_ext fun i hi => by simp [hT.pi_piInv]

/-- If `Sub` respects `^` on two Blocks, then `PI` does in lane 0 (R103). -/
theorem pi_xor_of_sub_xorBlock {a b : Block} (h : sub T (xorBlock a b) = xorBlock (sub T a) (sub T b)) :
    T.pi (a[0] ^^^ b[0]) = T.pi a[0] ^^^ T.pi b[0] := by
  simpa using congrArg (·[0]) h

end

/-- A format B command in a frame of another length than 17 is illegal (R63, R70, R175). -/
theorem stepFrame_formatB_of_length_ne {o : Op} (ho : o.format = .B) {ops : List Byte} (hl : ops.length ≠ 16)
    (s : State) : stepFrame (o.code :: ops) s = .next (s.answered [0x05]) := by
  have hreserved : reservedFrame (o.code :: ops) :=
    .inr (.inr (.inl ⟨17, by rw [frameLength?_code, ho], by simpa using hl⟩))
  exact (reservedFramesAreRefused _).2 hreserved s

/-- The printed example of R104. -/
theorem sub_printed_example :
    sub tables (gost 0xffeeddccbbaa99881122334455667700) = gost 0xb66cd8887d38e8d77765aeea0c9a7efc := by
  decide +kernel

/-- Settles O20: the tables are inverse to each other by evaluation, and everything else follows from that for any
such tables. -/
theorem substitutionTablesAreMutualInverses : Obligations.SubstitutionTablesAreMutualInverses := by
  have hleft : Function.LeftInverse tables.piInv tables.pi := tables_invertible.piInv_pi
  have hright : Function.RightInverse tables.piInv tables.pi := tables_invertible.pi_piInv
  exact ⟨hleft, hright, ⟨hleft.injective, hright.surjective⟩, ⟨hright.injective, hleft.surjective⟩,
    iSub_sub tables_invertible, sub_iSub tables_invertible⟩

/-- Settles O21: an output byte is the table at its input byte; the Blocks with 0x00 and with 0x01 at index 0 show
that `Sub` is not linear, since `PI[0x00] ^ PI[0x01]` is 0x12 and `PI[0x01]` is 0xEE. -/
theorem substitutionLanesAreIndependent : Obligations.SubstitutionLanesAreIndependent := by
  have hxor : tables.pi 0x00 ^^^ tables.pi 0x01 = 0x12 := by decide
  have hone : tables.pi 0x01 = 0xEE := by decide
  refine ⟨fun a b i j h => ?_, ⟨seed 0x00, seed 0x01, fun h => ?_⟩, hxor, hone⟩
  · have h' : a[i.val] = b[j.val] := h
    simp [h']
  · have hlane : tables.pi 0x01 = tables.pi 0x00 ^^^ tables.pi 0x01 := pi_xor_of_sub_xorBlock h
    rw [hxor, hone] at hlane
    exact absurd hlane (by decide)

/-- Settles O22: the answer is `Sub` byte by byte, its frame is the command's own, and the frames of another
length are reserved. -/
theorem subAnswersTheSubstitutedBlock : Obligations.SubAnswersTheSubstitutedBlock := by
  have hzero : tables.pi 0x00 = 0xFC := by decide
  refine fun s => ⟨fun blk => ?_, fun blk => decodeReadsEncodedCommand (.sub blk) rfl,
    fun _ hl => stepFrame_formatB_of_length_ne (o := .sub) rfl hl s, ?_, sub_printed_example⟩
  · rw [← mapBlock_toList]; rfl
  · rw [sub, mapBlock_replicate, hzero]

/-- Settles O23: as for `SUB`, with `ISub`, which undoes the printed example of `SUB`. -/
theorem isubAnswersTheInverseSubstitutedBlock : Obligations.IsubAnswersTheInverseSubstitutedBlock := by
  have hzero : tables.piInv 0x00 = 0xA5 := by decide
  refine fun s => ⟨fun blk => ?_, fun blk => decodeReadsEncodedCommand (.isub blk) rfl,
    fun _ hl => stepFrame_formatB_of_length_ne (o := .isub) rfl hl s, ?_, ?_⟩
  · rw [← mapBlock_toList]; rfl
  · rw [iSub, mapBlock_replicate, hzero]
  · rw [← sub_printed_example, iSub_sub tables_invertible]

end Sys2Proof.Machine
end

section
/-! PROOF. The GF(2^8) multiplier (R110 to R115). The one idea for R110: modulo the polynomial a byte is an element of
a ring in which `gfShift` is multiplication by x, so that each iteration of the loop of R111 adds the next term of
the product. -/

namespace Sys2Proof.Machine

open Polynomial

/-! ## Bytes as polynomials (R110) -/

/-- The polynomial of R110. -/
noncomputable def gfModulus : (ZMod 2)[X] := X ^ 8 + X ^ 7 + X ^ 6 + X + 1

/-- The polynomial of the `n` low bits of a byte. -/
noncomputable def bitPoly (n : Nat) (v : Byte) : (ZMod 2)[X] :=
  ∑ i ∈ Finset.range n, if v.getLsbD i then X ^ i else 0

/-- A byte as an element of the ring of polynomials modulo the polynomial of R110. -/
noncomputable def gfElem (v : Byte) : AdjoinRoot gfModulus := AdjoinRoot.mk gfModulus (bitPoly 8 v)

/-- Bit `n` is the next term above the `n` low bits. -/
theorem bitPoly_succ (n : Nat) (v : Byte) :
    bitPoly (n + 1) v = bitPoly n v + if v.getLsbD n then X ^ n else 0 := Finset.sum_range_succ ..

/-- Bit 0 is the constant term, and the bits above it are x times those of the byte shifted right. -/
theorem bitPoly_succ_shiftRight (n : Nat) (v : Byte) :
    bitPoly (n + 1) v = X * bitPoly n (v >>> 1) + if v.getLsbD 0 then 1 else 0 := by
  simp [bitPoly, Finset.sum_range_succ', Finset.mul_sum, pow_succ', Nat.add_comm 1]

/-- `^` is addition of polynomials. -/
theorem bitPoly_xor (n : Nat) (a b : Byte) : bitPoly n (a ^^^ b) = bitPoly n a + bitPoly n b := by
  rw [bitPoly, bitPoly, bitPoly, ← Finset.sum_add_distrib]
  refine Finset.sum_congr rfl fun i _ => ?_
  rw [BitVec.getLsbD_xor]
  cases a.getLsbD i <;> cases b.getLsbD i <;> simp [CharTwo.add_self_eq_zero]

@[simp] theorem bitPoly_zero (n : Nat) : bitPoly n 0#8 = 0 := by simp [bitPoly]

@[simp] theorem bitPoly_one : bitPoly 8 1#8 = 1 := by simp [bitPoly_succ_shiftRight]

/-- Shifting left multiplies by x, and drops the term that leaves the byte. -/
theorem bitPoly_shiftLeft (v : Byte) :
    bitPoly 8 (v <<< 1) + (if v.getLsbD 7 then X ^ 8 else 0) = X * bitPoly 8 v := by
  have hlow : bitPoly 7 (v <<< 1 >>> 1) = bitPoly 7 v :=
    Finset.sum_congr rfl fun i hi => by
      have hi : i < 7 := Finset.mem_range.mp hi
      have hbit : (v <<< 1 >>> 1).getLsbD i = v.getLsbD i := by
        rw [BitVec.getLsbD_ushiftRight, BitVec.getLsbD_shiftLeft]
        simp [show 1 + i < 8 by omega]
      rw [hbit]
  rw [bitPoly_succ_shiftRight, hlow, bitPoly_succ 7 v]
  cases v.getLsbD 7 <;> simp [mul_add, pow_succ']

/-- `GF_REDUCE` is the polynomial of R110 without its x^8 term. -/
theorem bitPoly_gfReduce : bitPoly 8 gfReduce = gfModulus - X ^ 8 :=
  calc bitPoly 8 gfReduce = 1 + X + X ^ 6 + X ^ 7 := by simp [bitPoly, Finset.sum_range_succ, gfReduce]
    _ = gfModulus - X ^ 8 := by rw [gfModulus]; ring

theorem gfElem_xor (a b : Byte) : gfElem (a ^^^ b) = gfElem a + gfElem b := by
  simp [gfElem, bitPoly_xor]

theorem gfElem_zero : gfElem 0#8 = 0 := by simp [gfElem]

/-- `gfShift` is multiplication by x. -/
theorem gfElem_gfShift (v : Byte) : gfElem (gfShift v) = AdjoinRoot.root gfModulus * gfElem v := by
  have hshift := congrArg (AdjoinRoot.mk gfModulus) (bitPoly_shiftLeft v)
  rw [map_add, map_mul, AdjoinRoot.mk_X] at hshift
  rw [gfElem, gfElem, ← hshift, gfShift]
  cases v.getLsbD 7
  · simp
  · simp [bitPoly_xor, bitPoly_gfReduce, CharTwo.sub_eq_add]

/-- Each of the `n` iterations adds one term of the product of the multiplicand and the multiplier. -/
theorem gfElem_gfLoop (n : Nat) (acc x y : Byte) :
    gfElem (gfLoop n acc x y) = gfElem acc + gfElem x * AdjoinRoot.mk gfModulus (bitPoly n y) := by
  induction n generalizing acc x y with
  | zero => simp [gfLoop, bitPoly]
  | succ n ih =>
    rw [gfLoop, ih, gfElem_gfShift, bitPoly_succ_shiftRight]
    cases y.getLsbD 0
    · simp [mul_left_comm, mul_assoc]
    · simp [gfElem_xor, mul_add, mul_left_comm, mul_assoc, add_assoc, add_comm]

/-- `GfMul` is multiplication modulo the polynomial of R110. -/
theorem gfElem_gfMul (a b : Byte) : gfElem (gfMul a b) = gfElem a * gfElem b :=
  calc gfElem (gfMul a b) = gfElem 0#8 + gfElem a * gfElem b := gfElem_gfLoop 8 0 a b
    _ = gfElem a * gfElem b := by rw [gfElem_zero, zero_add]

/-- Settles O24: the polynomials of the statement are those of `bitPoly`, and two of them are equal modulo the
polynomial of R110 when it divides their difference. -/
theorem gfMulIsThePolynomialProduct : Obligations.GfMulIsThePolynomialProduct := by
  intro P hP
  obtain rfl : P = bitPoly 8 := funext fun v => (hP v).trans
    (Fin.sum_univ_eq_sum_range (fun i => if v.getLsbD i then (X : (ZMod 2)[X]) ^ i else 0) 8)
  refine ⟨bitPoly_xor 8, fun a b => ?_, bitPoly_zero 8, bitPoly_one⟩
  have hmul : AdjoinRoot.mk gfModulus (bitPoly 8 (gfMul a b)) =
      AdjoinRoot.mk gfModulus (bitPoly 8 a * bitPoly 8 b) := by
    rw [map_mul]
    exact gfElem_gfMul a b
  exact AdjoinRoot.mk_eq_mk.mp hmul

/-! ## The laws (R112) and the inverse (R114) -/

/-- Settles O25: the laws in their order, the last one because no product of bytes other than zero is zero. -/
theorem gfMulLaws : Obligations.GfMulLaws := by
  refine ⟨gfMul_comm, gfMul_assoc, gfMul_xor_right, fun a => ⟨gfMul_zero_right a, gfMul_zero_left a⟩,
    fun a => ⟨gfMul_one_right a, gfMul_one_left a⟩, fun a b hab => ?_⟩
  by_contra hne
  obtain ⟨ha, hb⟩ := not_or.mp hne
  exact gfMul_ne_zero ha hb hab

/-- `a` multiplied `n` times into 1. -/
def gfPow (a : Byte) (n : Nat) : Byte := (fun y => gfMul y a)^[n] 1

theorem gfPow_succ (a : Byte) (n : Nat) : gfPow a (n + 1) = gfMul (gfPow a n) a :=
  Function.iterate_succ_apply' ..

theorem gfPow_one (a : Byte) : gfPow a 1 = a := gfMul_one_left a

/-- The product of two powers is the power of the sum. -/
theorem gfMul_gfPow (a : Byte) (m n : Nat) : gfMul (gfPow a m) (gfPow a n) = gfPow a (m + n) := by
  induction n with
  | zero => exact gfMul_one_right _
  | succ n ih => rw [gfPow_succ, ← gfMul_assoc, ih, ← Nat.add_assoc, gfPow_succ]

/-- Repeated squaring multiplies the powers with exponents `2 * k`, `4 * k`, up to `2 ^ n * k` into the
accumulator. -/
theorem gfPowLoop_gfPow (a : Byte) (n j k : Nat) :
    gfPowLoop n (gfPow a j) (gfPow a k) = gfPow a (j + ∑ i ∈ Finset.range n, 2 ^ (i + 1) * k) := by
  induction n generalizing j k with
  | zero => rfl
  | succ n ih =>
    have hsum : j + (k + k) + ∑ i ∈ Finset.range n, 2 ^ (i + 1) * (k + k) =
        j + ∑ i ∈ Finset.range (n + 1), 2 ^ (i + 1) * k := by
      have hterm (i : Nat) : 2 ^ (i + 1) * (k + k) = 2 ^ (i + 1 + 1) * k := by ring
      simp only [hterm, Finset.sum_range_succ' _ n]
      ring
    rw [gfPowLoop, gfMul_gfPow, gfMul_gfPow, ih, hsum]

/-- The exponent is 254 = 2 + 4 + ... + 128 (R114). -/
theorem gfInv_eq_gfPow {a : Byte} (ha : a ≠ 0) : gfInv a = gfPow a 254 := by
  have hexp : 0 + ∑ i ∈ Finset.range 7, 2 ^ (i + 1) * 1 = 254 := by decide
  calc gfInv a = gfPowLoop 7 (gfPow a 0) (gfPow a 1) := by rw [gfInv, if_neg ha, gfPow_one]; rfl
    _ = gfPow a 254 := by rw [gfPowLoop_gfPow, hexp]

/-- A byte has at most one inverse. -/
theorem eq_gfInv_of_gfMul_eq_one {a y : Byte} (ha : a ≠ 0) (hy : gfMul a y = 1#8) : y = gfInv a :=
  calc y = gfMul 1#8 y := (gfMul_one_left y).symm
    _ = gfMul (gfMul a (gfInv a)) y := by rw [gfMul_gfInv a ha]
    _ = gfMul (gfMul a y) (gfInv a) := gfMul_right_comm ..
    _ = gfMul 1#8 (gfInv a) := by rw [hy]
    _ = gfInv a := gfMul_one_left _

/-- Settles O26: `GfInv` is an inverse and the only one, and 1 is an inverse of 1. -/
theorem gfInvIsTheUniqueInverse : Obligations.GfInvIsTheUniqueInverse :=
  ⟨fun a ha => ⟨gfMul_gfInv a ha, fun _ => eq_gfInv_of_gfMul_eq_one ha, gfInv_eq_gfPow ha⟩,
    (eq_gfInv_of_gfMul_eq_one (by decide) (gfMul_one_left 1)).symm⟩

/-! ## The command (R115) -/

/-- A frame of another length than its opcode requires is illegal (R70, R175). -/
theorem stepFrame_of_length_ne {o : Op} {ops : List Byte} {n : Nat}
    (hn : frameLength? (o.code :: ops) = some n) (hl : ops.length + 1 ≠ n) (s : State) :
    stepFrame (o.code :: ops) s = .next (s.answered [0x05]) :=
  (reservedFramesAreRefused _).2 (.inr (.inr (.inl ⟨n, hn, hl⟩))) s

/-- Settles O27: the frame is the command's own, and those of another length are reserved; the products follow
from the laws, or are evaluated. -/
theorem gfmulAnswersTheProduct : Obligations.GfmulAnswersTheProduct := by
  refine fun s => ⟨fun _ _ => rfl, fun a b => decodeReadsEncodedCommand (.gfmul a b) rfl, fun rest hl => ?_,
    fun a => ⟨gfMul_zero_right a, gfMul_zero_left a, gfMul_one_right a, gfMul_one_left a⟩, gfMul_comm,
    by decide, by decide, by decide⟩
  have hlength : frameLength? (Op.gfmul.code :: rest) = some 3 := frameLength?_code ..
  exact stepFrame_of_length_ne hlength (by omega) s

end Sys2Proof.Machine
end

section
/-! PROOF. The diffusion pipeline (R121 to R130). The one idea: the bytes that meet the coefficients 1..15 in `LinSum`
are the ones `RStep` keeps, so `RStep` and `IRStep` share that part of the sum, and each can take it away again. -/

namespace Sys2Proof.Machine

/-! ## The weighted sum (R121) -/

/-- `XORSUM` with a starting value. -/
theorem foldl_xor (x : Byte) (bytes : List Byte) : bytes.foldl (· ^^^ ·) x = x ^^^ xorSum bytes := by
  have h := List.foldl_assoc (op := fun a b : Byte => a ^^^ b) (l := bytes) (a₁ := x) (a₂ := 0#8)
  rwa [BitVec.xor_zero] at h

theorem xorSum_cons (x : Byte) (bytes : List Byte) : xorSum (x :: bytes) = x ^^^ xorSum bytes :=
  calc xorSum (x :: bytes) = bytes.foldl (· ^^^ ·) (0#8 ^^^ x) := rfl
    _ = x ^^^ xorSum bytes := by rw [BitVec.zero_xor, foldl_xor]

/-- The bytes of a Block in index order (R9). -/
theorem toList_eq_bytes (b : Block) : b.toList =
    [b[0], b[1], b[2], b[3], b[4], b[5], b[6], b[7], b[8], b[9], b[10], b[11], b[12], b[13], b[14], b[15]] :=
  List.ext_getElem (by simp) fun i hi _ => by
    rw [Vector.length_toList] at hi
    interval_cases i <;> rfl

theorem toList_eq_cons_tail (b : Block) : b.toList = b[0] :: b.toList.tail := by
  rw [toList_eq_bytes, List.tail_cons]

section
variable (T : Tables)

/-- The terms of the weighted sum at indices 1..15, for the fifteen bytes that stay in the Block. -/
def keptSum (bytes : List Byte) : Byte := xorSum (List.zipWith gfMul bytes T.lvec.toList.tail)

/-- The weighted sum is the term of the byte that leaves, and the terms of the bytes that stay. -/
theorem linSum_eq_xor_keptSum (s : Block) :
    linSum T s = gfMul s[0] T.lvec[0] ^^^ keptSum T s.toList.tail := by
  have h : (zipBlock gfMul s T.lvec).toList =
      gfMul s[0] T.lvec[0] :: List.zipWith gfMul s.toList.tail T.lvec.toList.tail := by
    rw [← List.zipWith_cons_cons, ← toList_eq_cons_tail, ← toList_eq_cons_tail]
    rfl
  rw [linSum, h, xorSum_cons, keptSum]

theorem recovered_eq_keptSum (t : Block) :
    recovered T t = gfMul (gfInv T.lvec[0]) (t[15] ^^^ keptSum T t.toList.dropLast) := rfl

/-- `RStep` keeps the bytes above index 0 (R122). -/
theorem rStep_dropLast (s : Block) : (rStep T s).toList.dropLast = s.toList.tail := by simp [rStep]

/-- `IRStep` keeps the bytes below index 15 (R124). -/
theorem irStep_tail (t : Block) : (irStep T t).toList.tail = t.toList.dropLast := rfl

end

/-- Settles O28: the sum is written out for the sixteen bytes, and the moves are `RStep`'s two laws. -/
theorem rStepShiftsDownAndFeedsTheSumBack : Obligations.RStepShiftsDownAndFeedsTheSumBack := by
  refine fun T s => ⟨?_, rStep_getElem_lt T s, rStep_getElem_last T s⟩
  rw [linSum_eq_xor_keptSum, keptSum, ← foldl_xor, toList_eq_bytes s, toList_eq_bytes T.lvec]
  rfl

/-! ## The steps in sequence (R123, R125) -/

/-- In `n` steps a byte moves down by `n` indices, as long as it has not left. -/
theorem iterate_rStep_getElem (T : Tables) (n : Nat) (s : Block) (i : Nat) (hi : i + n < 16) :
    ((rStep T)^[n] s)[i] = s[i + n] := by
  induction n generalizing i with
  | zero => rfl
  | succ n ih =>
    rw [Function.iterate_succ_apply', rStep_getElem_lt _ _ _ (by omega), ih _ (by omega)]
    congr 1
    omega

/-- Settles O29: the sum that step `k + 1` puts at index 15 moves down to index `k` in the other `15 - k` steps. -/
theorem lDifIsSixteenSteps : Obligations.LDifIsSixteenSteps := by
  refine fun T s => ⟨iterate_eq _ 16 s, iterate_eq _ 16 s, fun k => ?_⟩
  have hsteps : lDif T s = (rStep T)^[15 - k.val] (rStep T ((rStep T)^[k.val] s)) := by
    rw [← Function.iterate_succ_apply' (rStep T), ← Function.iterate_add_apply, lDif, iterate_eq]
    congr 1
    omega
  have hlast : k.val + (15 - k.val) = 15 := by omega
  calc (lDif T s)[k] = (rStep T ((rStep T)^[k.val] s))[k.val + (15 - k.val)] := by
        rw [hsteps]; exact iterate_rStep_getElem T _ _ _ _
    _ = linSum T ((rStep T)^[k.val] s) := by simp only [hlast, rStep_getElem_last]

/-! ## The inverse step (R124, R126 (a), (b)) -/

section
variable {T : Tables}

/-- `IRStep` undoes `RStep`: without the kept terms, the sum is the term of the byte that left. -/
theorem irStep_rStep (h : T.lvec[0] ≠ 0) (s : Block) : irStep T (rStep T s) = s := by
  have hzero : recovered T (rStep T s) = s[0] :=
    calc recovered T (rStep T s)
        = gfMul (gfInv T.lvec[0]) (gfMul s[0] T.lvec[0]) := by
          rw [recovered_eq_keptSum, rStep_dropLast, rStep_getElem_last, linSum_eq_xor_keptSum, BitVec.xor_assoc,
            BitVec.xor_self, BitVec.xor_zero]
      _ = gfMul (gfMul T.lvec[0] (gfInv T.lvec[0])) s[0] := by
          rw [gfMul_comm, gfMul_assoc, gfMul_comm]
      _ = s[0] := by rw [gfMul_gfInv _ h, gfMul_one_left]
  refine block_ext fun i hi => ?_
  cases i with
  | zero => rw [irStep_getElem_zero, hzero]
  | succ i => rw [irStep_getElem_succ _ _ _ (by omega), rStep_getElem_lt _ _ _ (by omega)]

/-- `RStep` undoes `IRStep`: the recovered byte and the kept terms add up to the byte at index 15. -/
theorem rStep_irStep (h : T.lvec[0] ≠ 0) (t : Block) : rStep T (irStep T t) = t := by
  refine block_ext_last (fun i hi => ?_) ?_
  · rw [rStep_getElem_lt _ _ _ hi, irStep_getElem_succ _ _ _ hi]
  · have hterm : gfMul (recovered T t) T.lvec[0] = t[15] ^^^ keptSum T t.toList.dropLast := by
      rw [recovered_eq_keptSum, gfMul_comm, ← gfMul_assoc, gfMul_gfInv _ h, gfMul_one_left]
    rw [rStep_getElem_last, linSum_eq_xor_keptSum, irStep_getElem_zero, irStep_tail, hterm, BitVec.xor_assoc,
      BitVec.xor_self, BitVec.xor_zero]

theorem ilDif_lDif (h : T.lvec[0] ≠ 0) (s : Block) : ilDif T (lDif T s) = s := by
  have hinv : Function.LeftInverse (irStep T) (rStep T) := irStep_rStep h
  simpa only [ilDif, lDif, iterate_eq] using hinv.iterate 16 s

theorem lDif_ilDif (h : T.lvec[0] ≠ 0) (s : Block) : lDif T (ilDif T s) = s := by
  have hinv : Function.LeftInverse (rStep T) (irStep T) := rStep_irStep h
  simpa only [ilDif, lDif, iterate_eq] using hinv.iterate 16 s

/-- With `LVEC[0]` zero, `RStep` loses the byte at index 0: the all-zero Block and `e_0` have the same image. -/
theorem rStep_unitBlock_zero (h : T.lvec[0] = 0#8) : rStep T (unitBlock 0) = rStep T (Vector.replicate 16 0) := by
  have hsum : linSum T (unitBlock 0) = linSum T (Vector.replicate 16 0) := by
    rw [linSum_eq_xor_keptSum, linSum_eq_xor_keptSum, h, gfMul_zero_right, gfMul_zero_right]
    rfl
  refine block_ext_last (fun i hi => ?_) ?_
  · simp [rStep_getElem_lt, hi, unitBlock]
  · rw [rStep_getElem_last, rStep_getElem_last, hsum]

end

/-- Settles O30: the formula is `IRStep`'s definition written out, and `e_0` refutes injectivity where `LVEC[0]` is
zero. -/
theorem irStepRecoversTheByteThatLeft : Obligations.IRStepRecoversTheByteThatLeft := by
  have hone : gfInv tables.lvec[0] = 1#8 := gfInvIsTheUniqueInverse.2
  refine ⟨fun T t => ⟨irStep_getElem_succ T t, ?_⟩, fun T => irStep_rStep, fun T h hinj => ?_, rfl, fun acc => ?_⟩
  · rw [irStep_getElem_zero, recovered_eq_keptSum, keptSum, ← foldl_xor, toList_eq_bytes t, toList_eq_bytes T.lvec]
    rfl
  · exact absurd (hinj (rStep_unitBlock_zero h)) (by decide)
  · rw [hone, gfMul_one_left]

/-- Settles O31: each step undoes the other, hence so do sixteen of them. -/
theorem diffusionAndInverseAreMutualInverses : Obligations.DiffusionAndInverseAreMutualInverses := by
  intro T hT
  have hstep : Function.LeftInverse (irStep T) (rStep T) := irStep_rStep hT.lvec_zero
  have hstep' : Function.RightInverse (irStep T) (rStep T) := rStep_irStep hT.lvec_zero
  have hdif : Function.LeftInverse (ilDif T) (lDif T) := ilDif_lDif hT.lvec_zero
  have hdif' : Function.RightInverse (ilDif T) (lDif T) := lDif_ilDif hT.lvec_zero
  exact ⟨hstep, hstep', hdif, hdif', ⟨hstep.injective, hstep'.surjective⟩, ⟨hstep'.injective, hstep.surjective⟩,
    ⟨hdif.injective, hdif'.surjective⟩, ⟨hdif'.injective, hdif.surjective⟩⟩

/-! ## Linearity and full diffusion (R126 (c), (d)) -/

section
variable (T : Tables)

/-- The kept terms respect `^`. -/
theorem keptSum_zipWith_xor (as bs : List Byte) (h : as.length = bs.length) :
    keptSum T (List.zipWith (· ^^^ ·) as bs) = keptSum T as ^^^ keptSum T bs := by
  have hterms (cs : List Byte) : List.zipWith gfMul (List.zipWith (· ^^^ ·) as bs) cs =
      List.zipWith (· ^^^ ·) (List.zipWith gfMul as cs) (List.zipWith gfMul bs cs) :=
    List.ext_getElem (by simp) fun i _ _ => by simp [gfMul_xor_left]
  rw [keptSum, hterms]
  exact foldl_xor_zipWith_xor 0 0 _ _ (by simp [h])

theorem xorBlock_dropLast (a b : Block) : (xorBlock a b).toList.dropLast =
    List.zipWith (· ^^^ ·) a.toList.dropLast b.toList.dropLast :=
  List.ext_getElem (by simp) fun i _ _ => by simp [List.getElem_dropLast]

theorem recovered_xorBlock (a b : Block) : recovered T (xorBlock a b) = recovered T a ^^^ recovered T b := by
  have hbyte : (xorBlock a b)[15] ^^^ (keptSum T a.toList.dropLast ^^^ keptSum T b.toList.dropLast) =
      (a[15] ^^^ keptSum T a.toList.dropLast) ^^^ (b[15] ^^^ keptSum T b.toList.dropLast) := by
    rw [xorBlock_getElem]; ac_rfl
  simp only [recovered_eq_keptSum, xorBlock_dropLast]
  rw [keptSum_zipWith_xor _ _ _ (by simp), hbyte, gfMul_xor_right]

theorem irStep_xorBlock (a b : Block) : irStep T (xorBlock a b) = xorBlock (irStep T a) (irStep T b) := by
  refine block_ext fun i hi => ?_
  cases i with
  | zero => simp only [xorBlock_getElem, irStep_getElem_zero, recovered_xorBlock]
  | succ i =>
    have hi' : i < 15 := by omega
    simp only [xorBlock_getElem, irStep_getElem_succ, hi']

end

theorem xorBlock_self (a : Block) : xorBlock a a = Vector.replicate 16 0 :=
  block_ext fun i hi => by simp

/-- A map of Blocks that respects `^` fixes the all-zero Block. -/
theorem map_zero_of_map_xorBlock {f : Block → Block} (hf : ∀ a b, f (xorBlock a b) = xorBlock (f a) (f b)) :
    f (Vector.replicate 16 0) = Vector.replicate 16 0 := by
  rw [← xorBlock_self (Vector.replicate 16 0), hf, xorBlock_self, xorBlock_self]

/-- Settles O32: the four functions respect `^`, which fixes the all-zero Block. -/
theorem diffusionIsLinear : Obligations.DiffusionIsLinear := by
  intro T f hf
  have hxor : ∀ a b, f (xorBlock a b) = xorBlock (f a) (f b) := by
    obtain rfl | rfl | rfl | rfl := hf
    · exact rStep_xorBlock T
    · exact irStep_xorBlock T
    · exact lDif_xorBlock T
    · exact iterate_xorBlock (irStep_xorBlock T) 16
  exact ⟨hxor, map_zero_of_map_xorBlock hxor⟩

/-- Settles O33: no entry of the matrix of `LDif` is zero. -/
theorem lDifHasFullDiffusion : Obligations.LDifHasFullDiffusion := tables_fullDiffusion

/-! ## The commands (R127 to R130) -/

/-- The printed example of R127. -/
theorem rStep_printed_example : rStep tables (gost 0x00000000000000000000000000000100) =
    gost 0x94000000000000000000000000000001 := by decide +kernel

/-- The printed example of R128. -/
theorem lDif_printed_example : lDif tables (gost 0x64a59400000000000000000000000000) =
    gost 0xd456584dd0e3e84cc3166e4b7fa2890d := by decide +kernel

/-- Settles O34: the frames are the commands' own, those of another length are reserved, and the inverses undo the
printed examples. -/
theorem diffusionCommandsAnswerTheirFunctions : Obligations.DiffusionCommandsAnswerTheirFunctions := by
  refine fun s => ⟨fun blk => ⟨rfl, rfl, rfl, rfl⟩, fun blk => ?_, fun rest hl => ?_, rStep_printed_example,
    lDif_printed_example, ?_, ?_⟩
  · exact ⟨decodeReadsEncodedCommand (.rstep blk) rfl, decodeReadsEncodedCommand (.ldif blk) rfl,
      decodeReadsEncodedCommand (.irstep blk) rfl, decodeReadsEncodedCommand (.ildif blk) rfl⟩
  · exact ⟨stepFrame_formatB_of_length_ne (o := .rstep) rfl hl s,
      stepFrame_formatB_of_length_ne (o := .ldif) rfl hl s, stepFrame_formatB_of_length_ne (o := .irstep) rfl hl s,
      stepFrame_formatB_of_length_ne (o := .ildif) rfl hl s⟩
  · rw [← rStep_printed_example, irStep_rStep tables_invertible.lvec_zero]
  · rw [← lDif_printed_example, ilDif_lDif tables_invertible.lvec_zero]

end Sys2Proof.Machine
end

section
/-! PROOF. The round-constant generator (R135 to R138). The one idea: the seed block of `i` is the seed block of 1
scaled by `i`, and `LDif` is linear and, for invertible tables, injective. -/

namespace Sys2Proof.Machine

/-! ## Seeds and constants (R135, R136) -/

@[simp] theorem seed_getElem_zero (i : Byte) : (seed i)[0] = i := rfl

/-- A seed block tells its byte. -/
theorem seed_injective : Function.Injective seed :=
  fun a b h => by simpa using congrArg (·[0]) h

theorem seed_zero : seed 0 = Vector.replicate 16 0 := rfl

/-- The bytes above index 0 are zero, and zero scaled is zero. -/
theorem seed_eq_scaleBlock_seed_one (i : Byte) : seed i = scaleBlock i (seed 1) := by
  simp [seed, scaleBlock, mapBlock]

section
variable (T : Tables)

/-- Every constant is the first one scaled by its seed byte (R136, by R126 (c)). -/
theorem roundConst_eq_scaleBlock (i : Byte) : roundConst T i = scaleBlock i (roundConst T 1) := by
  rw [roundConst, seed_eq_scaleBlock_seed_one, lDif_scaleBlock, roundConst]

/-- The constant that seed byte 0 would give, which is no seed index (R135). -/
theorem roundConst_zero : roundConst T 0 = Vector.replicate 16 0 := by
  rw [roundConst, seed_zero]
  exact map_zero_of_map_xorBlock (lDif_xorBlock T)

end

/-- Different seed bytes give different constants (R136). -/
theorem roundConst_injective {T : Tables} (hT : T.Invertible) : Function.Injective (roundConst T) :=
  (Function.LeftInverse.injective (ilDif_lDif hT.lvec_zero)).comp seed_injective

/-- The seed byte of register `j` (R137). -/
theorem seedByte_toNat (j : Fin 32) : (BitVec.ofNat 8 (j.val + 1)).toNat = j.val + 1 :=
  Nat.mod_eq_of_lt (by omega)

/-- Different registers have different seed bytes (R137). -/
theorem seedByte_injective : Function.Injective fun j : Fin 32 => BitVec.ofNat 8 (j.val + 1) := by
  intro i j h
  have hnat := congrArg BitVec.toNat h
  simp only [seedByte_toNat] at hnat
  omega

/-- No register has seed byte 0 (R137). -/
theorem seedByte_ne_zero (j : Fin 32) : BitVec.ofNat 8 (j.val + 1) ≠ 0 := by
  intro h
  have hnat := congrArg BitVec.toNat h
  rw [seedByte_toNat] at hnat
  exact Nat.succ_ne_zero _ hnat

/-- The printed first constant of R136. -/
theorem roundConst_printed_example : roundConst tables 1 = gost 0x6ea276726c487ab85d27bd10dd849401 := by
  decide +kernel

/-- Settles O35: scaling is `LDif`'s linearity, and `LDif` keeps the seed blocks apart from each other and from the
all-zero Block. -/
theorem roundConstantsAreDiffusedSeeds : Obligations.RoundConstantsAreDiffusedSeeds := by
  have hstored (T : Tables) (j : Fin 32) : (roundConstants T)[j] = roundConst T (BitVec.ofNat 8 (j.val + 1)) :=
    roundConstants_getElem T j.val j.isLt
  refine ⟨(hstored tables 0).trans roundConst_printed_example, fun T => ⟨hstored T, fun j k => ?_, fun hT =>
    ⟨fun i j h => ?_, fun j h => ?_⟩⟩⟩
  · have hfirst : (roundConstants T)[0] = roundConst T 1 := hstored T 0
    rw [hstored, hfirst, roundConst_eq_scaleBlock]
    exact scaleBlock_getElem ..
  · rw [hstored, hstored] at h
    exact seedByte_injective (roundConst_injective hT h)
  · rw [hstored, ← roundConst_zero T] at h
    exact seedByte_ne_zero j (roundConst_injective hT h)

/-! ## The command (R138) -/

/-- In a derived Keyed state `RC` holds the generated constants, whatever the key (R23). -/
theorem KeyState.Derived.exists_eq_keyed {k : KeyState} (hk : k.Derived) (hflag : k.flag = true) :
    ∃ rk, k = .keyed rk (roundConstants tables) := by
  cases k with
  | unkeyed => cases hflag
  | keyed rk rc =>
    obtain ⟨rfl, -⟩ := hk
    exact ⟨rk, rfl⟩

/-- In the Keyed state `RDRC` answers the stored constant (R138). -/
theorem exec_rdrc_of_keyed {s : State} {rk : RoundKeys} {rc : RoundConstants} (h : s.st = .keyed rk rc)
    (idx : Fin 32) : exec (.rdrc idx) s = .next (s.answered (0x00 :: rc[idx].toList)) :=
  requireKeyed_keyed h _

/-- Settles O36: the state check decides between the two answers, the frame is the command's own, and the frames of
another length or with a higher index are reserved. -/
theorem rdrcReadsTheStoredConstant : Obligations.RdrcReadsTheStoredConstant := by
  refine fun s idx => ⟨fun h => requireKeyed_unkeyed h _, fun rk rc h => exec_rdrc_of_keyed h idx, fun hk hflag => ?_,
    decodeReadsEncodedCommand (.rdrc idx) rfl, fun rest hrest => ?_⟩
  · obtain ⟨rk, h⟩ := hk.exists_eq_keyed hflag
    rw [exec_rdrc_of_keyed h, ← roundConstants_getElem tables idx.val idx.isLt]
    rfl
  · rcases hrest with hl | ⟨b, rfl, hb⟩
    · have hlength : frameLength? (Op.rdrc.code :: rest) = some 2 := frameLength?_code ..
      exact stepFrame_of_length_ne hlength (by omega) s
    · exact (reservedFramesAreRefused _).2 (.inr (.inr (.inr (.inr ⟨b, rfl, hb⟩)))) s

end Sys2Proof.Machine
end

section
/-! PROOF. The Feistel key schedule (R140 to R143). The two ideas: an iteration is undone because its second half is
the first half it was computed from, and the four groups of eight iterations are stretches of one loop. -/

namespace Sys2Proof.Machine

/-! ## One iteration (R140) -/

/-- `^` on Blocks undoes itself on the left as well. -/
@[simp] theorem xorBlock_self_xorBlock (a b : Block) : xorBlock a (xorBlock a b) = b := by
  rw [xorBlock_comm a b, xorBlock_comm, xorBlock_xorBlock_self]

section
variable (T : Tables)

/-- The pair before an iteration with constant `c`, from the pair after it (R140). -/
def feistelInv (c : Block) (new : Block × Block) : Block × Block :=
  (new.2, xorBlock (lDif T (sub T (xorBlock new.2 c))) new.1)

/-- The mask that the iteration adds to the right half is computed from the left half, which is kept. -/
theorem feistelInv_feistel (c : Block) : Function.LeftInverse (feistelInv T c) (feistel T · c) := by
  rintro ⟨l, r⟩
  simp [feistelInv]

theorem feistel_feistelInv (c : Block) : Function.RightInverse (feistelInv T c) (feistel T · c) := by
  rintro ⟨newL, newR⟩
  simp [feistelInv, feistel]

end

/-- Settles O37: the inverse iteration, on the pair after the iteration, gives the pair before it. -/
theorem feistelIterationIsInvertible : Obligations.FeistelIterationIsInvertible := by
  refine fun T l r c => ⟨rfl, fun newL newR h => ?_,
    (feistelInv_feistel T c).injective, (feistel_feistelInv T c).surjective⟩
  have hold : feistelInv T c (newL, newR) = (l, r) := h ▸ feistelInv_feistel T c (l, r)
  exact ⟨(congrArg Prod.fst hold).symm, (congrArg Prod.snd hold).symm⟩

/-! ## The round keys (R141) -/

section
variable (T : Tables) (rc : RoundConstants) (k1 k2 : Block)

/-- The one loop goes on from iteration `m` for `n` iterations (R141). -/
theorem feistelPair_add (m n : Nat) : feistelPair T rc k1 k2 (m + n) =
    (List.range n).foldl (fun p k => feistel T p (rc.getD (m + k) (Vector.replicate 16 0)))
      (feistelPair T rc k1 k2 m) := by
  induction n with
  | zero => rfl
  | succ n ih =>
    rw [List.range_succ, List.foldl_concat, ← ih]
    rfl

/-- A group is eight iterations by their numbers in the one loop (R141). -/
theorem feistelGroup_eq_foldl_range (g : Fin 4) (lr : Block × Block) : feistelGroup T rc g lr =
    (List.range 8).foldl (fun p k => feistel T p (rc.getD (8 * g.val + k) (Vector.replicate 16 0))) lr := by
  have hread (k : Fin 8) : rc.getD (8 * g.val + k.val) (Vector.replicate 16 0) = rc[8 * g.val + k.val] := by
    have hlt : 8 * g.val + k.val < 32 := by omega
    simp [Vector.getD, hlt]
  rw [← List.map_coe_finRange_eq_range, List.foldl_map]
  simp only [hread, feistelGroup]

/-- Group `g` takes the pair after `8g` iterations to the pair after `8(g + 1)` of them. -/
theorem feistelGroup_feistelPair (g : Fin 4) {m n : Nat} (hm : 8 * g.val = m) (hn : m + 8 = n) :
    feistelGroup T rc g (feistelPair T rc k1 k2 m) = feistelPair T rc k1 k2 n := by
  rw [feistelGroup_eq_foldl_range, hm, ← feistelPair_add, hn]

/-- The keys are the halves and the pairs that the four groups give in sequence (R141). -/
theorem deriveRoundKeys_eq_of_groups {p1 p2 p3 p4 : Block × Block} (h1 : feistelGroup T rc 0 (k1, k2) = p1)
    (h2 : feistelGroup T rc 1 p1 = p2) (h3 : feistelGroup T rc 2 p2 = p3) (h4 : feistelGroup T rc 3 p3 = p4) :
    deriveRoundKeys T rc k1 k2 = #v[k1, k2, p1.1, p1.2, p2.1, p2.2, p3.1, p3.2, p4.1, p4.2] := by
  simp only [deriveRoundKeys, h1, h2, h3, h4]

/-- The groups in sequence capture the pairs of the one loop. -/
theorem deriveRoundKeys_eq_feistelPairs : deriveRoundKeys T rc k1 k2 =
    #v[k1, k2, (feistelPair T rc k1 k2 8).1, (feistelPair T rc k1 k2 8).2,
      (feistelPair T rc k1 k2 16).1, (feistelPair T rc k1 k2 16).2,
      (feistelPair T rc k1 k2 24).1, (feistelPair T rc k1 k2 24).2,
      (feistelPair T rc k1 k2 32).1, (feistelPair T rc k1 k2 32).2] :=
  deriveRoundKeys_eq_of_groups T rc k1 k2
    (feistelGroup_feistelPair T rc k1 k2 0 (m := 0) rfl rfl) (feistelGroup_feistelPair T rc k1 k2 1 rfl rfl)
    (feistelGroup_feistelPair T rc k1 k2 2 rfl rfl) (feistelGroup_feistelPair T rc k1 k2 3 rfl rfl)

/-- Key 0 is the first half as loaded (R141). -/
@[simp] theorem deriveRoundKeys_getElem_zero : (deriveRoundKeys T rc k1 k2)[0] = k1 := rfl

/-- Key 1 is the second half as loaded (R141). -/
@[simp] theorem deriveRoundKeys_getElem_one : (deriveRoundKeys T rc k1 k2)[1] = k2 := rfl

end

/-- Settles O38: the groups capture the pairs of the one loop, which are read off for each `g`. -/
theorem roundKeysAreThePairsOfOneLoop : Obligations.RoundKeysAreThePairsOfOneLoop := by
  intro T rc k1 k2
  refine ⟨deriveRoundKeys_getElem_zero .., deriveRoundKeys_getElem_one .., fun g hg => ?_⟩
  simp only [deriveRoundKeys_eq_feistelPairs]
  match g with
  | 0 | 1 | 2 | 3 | 4 => exact ⟨rfl, rfl⟩

/-! ## The commands (R142, R143) -/

/-- Settles O39: the three cases of `KEYINIT`, by the engine's state and the lengths. -/
theorem keyinitConstructsTheInstance : Obligations.KeyinitConstructsTheInstance := by
  refine ⟨fun s k1 k2 h => ⟨_, rfl, deriveRoundKeys_getElem_zero .., deriveRoundKeys_getElem_one ..,
    execKeyinit_toList h k1 k2⟩, fun s k1 k2 h => ?_, fun s k1 k2 h hl => execKeyinit_wrong h hl⟩
  cases hst : s.st with
  | unkeyed => rw [hst] at h; cases h
  | keyed rk rc => exact execKeyinit_of_keyed hst k1 k2

/-- In the Keyed state `RDRK` answers the stored key (R143). -/
theorem exec_rdrk_of_keyed {s : State} {rk : RoundKeys} {rc : RoundConstants} (h : s.st = .keyed rk rc)
    (idx : Fin 10) : exec (.rdrk idx) s = .next (s.answered (0x00 :: rk[idx].toList)) :=
  requireKeyed_keyed h _

/-- A format I command in a frame of another length than 2 is illegal (R65, R70, R175). -/
theorem stepFrame_formatI_of_length_ne {o : Op} (ho : o.format = .I) {ops : List Byte} (hl : ops.length ≠ 1)
    (s : State) : stepFrame (o.code :: ops) s = .next (s.answered [0x05]) := by
  have hlength : frameLength? (o.code :: ops) = some 2 := by rw [frameLength?_code, ho]
  exact stepFrame_of_length_ne hlength (by omega) s

/-- Settles O40: the state check decides between the two answers, the other frames are reserved, and `KEYINIT`
stores the halves as keys 0 and 1. -/
theorem rdrkReadsTheStoredKey : Obligations.RdrkReadsTheStoredKey := by
  refine ⟨fun s idx => ⟨fun h => requireKeyed_unkeyed h _, fun rk rc h => exec_rdrk_of_keyed h idx,
    decodeReadsEncodedCommand (.rdrk idx) rfl, fun rest hrest => ?_⟩, fun s t k1 k2 h hrun => ?_⟩
  · rcases hrest with hl | ⟨b, rfl, hb⟩
    · exact stepFrame_formatI_of_length_ne (o := .rdrk) rfl hl s
    · exact (reservedFramesAreRefused _).2 (.inr (.inr (.inr (.inl ⟨b, rfl, hb⟩)))) s
  · have hnext : exec (.keyinit k1.toList k2.toList) s = _ := execKeyinit_toList h k1 k2
    obtain rfl : _ = t := Host.Outcome.next.inj (hnext.symm.trans hrun)
    have hst := State.after_st s (.keyed (deriveRoundKeys tables (roundConstants tables) k1 k2) (roundConstants tables))
      [0x00]
    exact ⟨exec_rdrk_of_keyed hst 0, exec_rdrk_of_keyed hst 1⟩

end Sys2Proof.Machine
end

section
/-! PROOF. The encrypt/decrypt core (R155 to R161). The one idea: each round of `Decrypt` undoes the round of `Encrypt`
with the same key, and the two lists of rounds run in opposite orders. -/

namespace Sys2Proof.Machine

/-! ## Encrypt and Decrypt (R155 to R157) -/

section
variable {T : Tables}

/-- A round of `Decrypt` undoes the round of `Encrypt` with the same key, line by line (R157 (a)). -/
theorem decRound_encRound (hT : T.Invertible) (k b : Block) : decRound T k (encRound T k b) = b := by
  rw [decRound, encRound, ilDif_lDif hT.lvec_zero, iSub_sub hT, xorBlock_comm, xorBlock_xorBlock_self]

/-- A round of `Encrypt` undoes the round of `Decrypt` with the same key (R157 (b)). -/
theorem encRound_decRound (hT : T.Invertible) (k b : Block) : encRound T k (decRound T k b) = b := by
  rw [decRound, encRound, xorBlock_comm, xorBlock_self_xorBlock, sub_iSub hT, lDif_ilDif hT.lvec_zero]

/-- A list of rounds run backwards and then forwards gives the block back, if each round has an inverse. -/
theorem foldl_foldr_cancel {ι : Type} (f g : ι → Block → Block) (h : ∀ r b, f r (g r b) = b) (rounds : List ι)
    (b : Block) : rounds.foldl (fun b r => f r b) (rounds.foldr g b) = b := by
  simpa using foldr_foldl_cancel g f h rounds.reverse b

theorem decrypt_encrypt (hT : T.Invertible) (k : RoundKeys) (b : Block) : decrypt T k (encrypt T k b) = b := by
  rw [decrypt, encrypt, xorBlock_xorBlock_self, foldr_foldl_cancel fun r : Fin 9 => encRound T k[r.val]]
  exact fun r => decRound_encRound hT k[r.val]

theorem encrypt_decrypt (hT : T.Invertible) (k : RoundKeys) (b : Block) : encrypt T k (decrypt T k b) = b := by
  rw [encrypt, decrypt, foldl_foldr_cancel fun r : Fin 9 => encRound T k[r.val], xorBlock_xorBlock_self]
  exact fun r => encRound_decRound hT k[r.val]

end

/-- Settles O43: the rounds cancel from the inside out, and so does the addition of the tenth key. -/
theorem decryptUndoesEncrypt : Obligations.DecryptUndoesEncrypt :=
  fun _ hT k b => ⟨decrypt_encrypt hT k b, encrypt_decrypt hT k b⟩

/-- Settles O41: the given round is the model's, and the loop over nine rounds is written out. -/
theorem encryptIsNineRoundsThenAKey : Obligations.EncryptIsNineRoundsThenAKey := by
  intro T k b round hround
  obtain rfl : round = fun r => encRound T k[r.val] := funext₂ hround
  rfl

/-- Settles O42: as for `Encrypt`, the loop running down. -/
theorem decryptIsAKeyThenNineRounds : Obligations.DecryptIsAKeyThenNineRounds := by
  intro T k b round hround
  obtain rfl : round = fun r => decRound T k[r.val] := funext₂ hround
  rfl

/-- The published ciphertext of R157 (d), by evaluating the key schedule and the nine rounds. -/
theorem encrypt_reference_vector :
    encrypt tables (deriveRoundKeys tables (roundConstants tables)
        (gost 0x8899aabbccddeeff0011223344556677) (gost 0xfedcba98765432100123456789abcdef))
      (gost 0x1122334455667700ffeeddccbbaa9988) = gost 0x7f679d90bebc24305a468d42b9d4edcd := by
  decide +kernel

/-- Settles O44: encryption is evaluated, and decryption gives the plaintext back because it undoes encryption. -/
theorem referenceVectorEncrypts : Obligations.ReferenceVectorEncrypts := by
  refine ⟨encrypt_reference_vector, ?_⟩
  rw [← encrypt_reference_vector, decrypt_encrypt tables_invertible]

/-! ## The commands (R160, R161) -/

/-- An engine whose flag is set holds keys and constants (R21). -/
theorem KeyState.exists_eq_keyed {k : KeyState} (hflag : k.flag = true) : ∃ rk rc, k = .keyed rk rc := by
  cases k with
  | unkeyed => cases hflag
  | keyed rk rc => exact ⟨rk, rc, rfl⟩

section
variable {s : State} {rk : RoundKeys} {rc : RoundConstants}

/-- In the Keyed state `ENC` of a Block answers the ciphertext (R160). -/
theorem exec_enc_toList (h : s.st = .keyed rk rc) (b : Block) :
    exec (.enc b.toList) s = .next (s.answered (0x00 :: (encrypt tables rk b).toList)) :=
  (requireKeyed_keyed h _).trans (requireBlock_toList b _)

/-- In the Keyed state `DEC` of a Block answers the plaintext (R161). -/
theorem exec_dec_toList (h : s.st = .keyed rk rc) (b : Block) :
    exec (.dec b.toList) s = .next (s.answered (0x00 :: (decrypt tables rk b).toList)) :=
  (requireKeyed_keyed h _).trans (requireBlock_toList b _)

end

/-- Settles O45: the state check decides first, then the length check, and a Block is answered. -/
theorem encAndDecAnswerOneBlock : Obligations.EncAndDecAnswerOneBlock := by
  refine ⟨fun s data h => ⟨requireKeyed_unkeyed h _, requireKeyed_unkeyed h _⟩, fun s data hflag hl => ?_,
    fun s rk rc b h => ⟨exec_enc_toList h b, exec_dec_toList h b⟩⟩
  obtain ⟨rk, rc, h⟩ := KeyState.exists_eq_keyed hflag
  exact ⟨(requireKeyed_keyed h _).trans (requireBlock_wrong hl _),
    (requireKeyed_keyed h _).trans (requireBlock_wrong hl _)⟩

/-- Settles O46: `ENC` leaves the keys as they are, so `DEC` decrypts with the keys that encrypted. -/
theorem decAfterEncAnswersThePlaintext : Obligations.DecAfterEncAnswersThePlaintext := by
  intro s b hflag
  obtain ⟨rk, rc, h⟩ := KeyState.exists_eq_keyed hflag
  have hkept : (s.answered (0x00 :: (encrypt tables rk b).toList)).st = .keyed rk rc := h
  refine ⟨encrypt tables rk b, exec_enc_toList h b, ?_⟩
  rw [exec_dec_toList hkept, decrypt_encrypt tables_invertible]

end Sys2Proof.Machine
end

section
/-! PROOF. Refusals and the idle engine (60_exceptions.md): a refused command leaves everything but its status byte
as it was, so that the same frame is refused again, and with no event pending nothing happens. -/

namespace Sys2Proof.Machine

/-- An effect whose response does not begin with OK is the refusal of a failing check (R66, R177). -/
theorem Effect.refused_of_head?_ne {c : Except Illegal Instr} {k k' : KeyState} {g : Frame} (he : Effect c k k' g)
    (hg : g.head? ≠ some 0x00) : k' = k ∧ ∃ status : Status, status ≠ .ok ∧ g = [status.code] := by
  cases he with
  | refused status hcheck =>
    have hne : status ≠ .ok := fun h => failedCheck?_ne_some_ok _ _ (h ▸ hcheck)
    exact ⟨rfl, status, hne, rfl⟩
  | answered => exact absurd rfl hg
  | keyed => exact absurd rfl hg

/-- A frame that only adds its response in one state adds the same one in every state whose engine is in the same
state: no other field is read (R20, R29). -/
theorem stepFrame_answered_of_st_eq {f : Frame} {s t : State} {g : Frame}
    (h : stepFrame f s = .next (s.answered g)) (ht : t.st = s.st) : stepFrame f t = .next (t.answered g) := by
  obtain ⟨k', g', -, hrun⟩ := stepFrame_performs f s.st
  have hafter : s.answered g = s.after k' g' := Host.Outcome.next.inj (h.symm.trans (hrun s rfl))
  obtain rfl : s.st = k' := congrArg State.st hafter
  obtain rfl : g = g' := by simpa [State.answered] using congrArg State.responses hafter
  rw [hrun t ht, ← ht]
  rfl

/-- Settles O16: of the effects a frame can have, only a refusal answers with another status than OK. -/
theorem refusalHasNoEffect : Obligations.RefusalHasNoEffect := by
  intro f s t g h hresp hg
  obtain ⟨k', g', he, rfl⟩ := (stepFrame_performs f _).of_next h
  obtain rfl : g' = g := by simpa using hresp
  obtain ⟨rfl, hstatus⟩ := he.refused_of_head?_ne hg
  exact ⟨rfl, hstatus⟩

/-- Settles O17: the refusal leaves the engine's state, on which alone the answer depends. -/
theorem refusedFrameIsRefusedAgain : Obligations.RefusedFrameIsRefusedAgain :=
  fun _ _ _ _ h => stepFrame_answered_of_st_eq h rfl

/-- Settles O7, by the equation of the step for no pending event. -/
theorem idleEngineStartsNothing : Obligations.IdleEngineStartsNothing := fun _ hp => step_of_nil hp

end Sys2Proof.Machine
end

section
/-! PROOF. Reset (70_reset_and_hazards.md): it voids the engine without a response, and it alone leads from Keyed to
Unkeyed, because a Keyed engine keeps its state in every other step (R31). -/

namespace Sys2Proof.Machine

/-- Settles O11: a reset step has one equation, and a Keyed engine that no reset is pending for stays as it is (O12),
so that it does not become Unkeyed. -/
theorem onlyResetLeavesTheKeyedState : Obligations.OnlyResetLeavesTheKeyedState := by
  refine ⟨fun s rest hp => step_of_reset hp, fun s t h hflag hu => ?_⟩
  obtain ⟨-, -, keyedEngineStays⟩ := onlySuccessfulKeyinitChangesTheEngine
  rcases keyedEngineStays s t h hflag with heq | hreset
  · have hunkeyed : s.st = .unkeyed := heq.symm.trans hu
    simp [hunkeyed, KeyState.flag] at hflag
  · exact hreset

end Sys2Proof.Machine
end
